-- ==== Sys2Proof/Word.lean ====
section
/-! DEFINITION. The widths of the block: bytes, register words, scalar words, granules, and the sparse table that
holds every numbered set of records. -/

namespace Sys2Proof

/-- A byte of Lee memory. -/
abbrev Byte := BitVec 8

/-- A 32-bit register of the register space (R5). -/
abbrev Word := BitVec 32

/-- A scalar register (R67). -/
abbrev DWord := BitVec 64

/-- The data of one granule, 16 B (R33); also one instruction (R66). -/
abbrev Granule := BitVec 128

/-- A granule as it is stored: 128 data bits below 16 check bits (R334). -/
abbrev Stored := BitVec 144

/-- Records by number. The canonical form has strictly rising keys and no entry that equals what a key without an
entry reads as. -/
abbrev Table (α : Type) := List (Nat × α)

end Sys2Proof
end

