-- ==== Sys2Proof/Syntax.lean ====
section
/-! DEFINITION. The commands of the block: one constructor per row of spec/opcode_table.json. A command names the
agent whose step comes next (an Eddy, a link, a port, a command source ...); what that agent works on stands in State.
Data that reaches the block from outside in that step (a flit, a training word, a sensor value, the outcome of a
physical check) is an operand. Each docstring cites the row's rule. -/

namespace Sys2Proof

/-- The commands (log 1). -/
inductive Instr where
  /-- R76. CTL NOP issues and does nothing. -/
  | nop (e : Nat)
  /-- R73. CTL BR continues at TARGET when taken, costing 12 Gale cycles, or 1 cycle when untaken. -/
  | br (e : Nat)
  /-- R76. CTL BRR continues at the index held in a register, and raises PC_RANGE above 16,383. -/
  | brr (e : Nat)
  /-- R76. CTL CALL pushes the return index and continues at TARGET, and raises STACK when the stack is full. -/
  | call (e : Nat)
  /-- R76. CTL RET pops an index and continues there, and raises STACK when the stack is empty. -/
  | ret (e : Nat)
  /-- R78. CTL LOOP starts a hardware loop on a counter, or skips the body when the count is 0. -/
  | loop (e : Nat)
  /-- R80. CTL HALT ends the Task once its earlier instructions have completed. -/
  | halt (e : Nat)
  /-- R77. CTL TRAP records a 0x38F notice event, and the Task continues. -/
  | trap (e : Nat)
  /-- R76. CTL RDCTR writes the Task cycle counter to a register. -/
  | rdctr (e : Nat)
  /-- R81. SCA ADD writes A + B modulo 2^64. -/
  | add (e : Nat)
  /-- R81. SCA SUB writes A − B. -/
  | sub (e : Nat)
  /-- R81. SCA MUL writes the low 64 bits of the product. -/
  | mul (e : Nat)
  /-- R81. SCA MULH writes the high 64 bits of the signed product. -/
  | mulh (e : Nat)
  /-- R81. SCA AND writes the bitwise AND. -/
  | and (e : Nat)
  /-- R81. SCA OR writes the bitwise OR. -/
  | or (e : Nat)
  /-- R81. SCA XOR writes the bitwise XOR. -/
  | xor (e : Nat)
  /-- R81. SCA SHL shifts left by B[5:0]. -/
  | shl (e : Nat)
  /-- R81. SCA SHR shifts right logically by B[5:0]. -/
  | shr (e : Nat)
  /-- R81. SCA SAR shifts right arithmetically by B[5:0]. -/
  | sar (e : Nat)
  /-- R81. SCA MIN writes the signed minimum. -/
  | min (e : Nat)
  /-- R81. SCA MAX writes the signed maximum. -/
  | max (e : Nat)
  /-- R81. SCA CMP writes to a predicate bit whether condition COND holds. -/
  | cmp (e : Nat)
  /-- R81. SCA SEL selects A or B by a predicate. -/
  | sel (e : Nat)
  /-- R83. SCA LDS loads 8 B from the Task's own Eddy banks with a latency of exactly 8 cycles. -/
  | lds (e : Nat)
  /-- R83. SCA STS writes 8 B by an indivisible read-modify-write of its granule. -/
  | sts (e : Nat)
  /-- R84. MOV copies n granules between Lee addresses in any enabled Current, with their poison. -/
  | mov (e : Nat)
  /-- R85. Acknowledgment of a MOV's last granule write lets the sequencer issue again. -/
  | movComplete (e : Nat)
  /-- R86. SYN GSIG sends a signal with release semantics to a Gate. -/
  | gsig (e : Nat)
  /-- R452. SYN GWAIT sends a wait with a threshold to its Gate and holds issue. -/
  | gwait (e : Nat)
  /-- R88. SYN BAR adds 1 to a barrier Gate and waits for N arrivals. -/
  | bar (e : Nat)
  /-- R52. SYN FENCE holds issue until the Task's earlier accesses are visible in its scope. -/
  | fence (e : Nat)
  /-- R90. A FENCE completes within its bounds once the last condition of its scope is met. -/
  | fenceComplete (e : Nat)
  /-- R45. A signal reaches a Gate, adds its count, and the Gate tests its waiting waits in order. -/
  | gateSignalArrival (g k : Nat)
  /-- R45. A wait reaches its Gate and completes, subtracting its threshold, or stays waiting. -/
  | gateWaitArrival (g k : Nat)
  /-- R89. A satisfied wait's wake message reaches the waiter, and the instruction after the GWAIT or BAR issues. -/
  | gateWake (e : Nat)
  /-- R74. A unit takes up the next instruction of its 8-entry queue and frees the entry. -/
  | unitTakeUp (e u : Nat)
  /-- R91. VEC VADD adds element by element. -/
  | vadd (e : Nat)
  /-- R91. VEC VSUB subtracts element by element. -/
  | vsub (e : Nat)
  /-- R91. VEC VMUL multiplies element by element. -/
  | vmul (e : Nat)
  /-- R91. VEC VFMA computes a×b+c, rounded once. -/
  | vfma (e : Nat)
  /-- R91. VEC VAXPY computes s×a+b with a scalar s. -/
  | vaxpy (e : Nat)
  /-- R91. VEC VMAX takes the larger element, with NaN winning. -/
  | vmax (e : Nat)
  /-- R91. VEC VMIN takes the smaller element, with NaN winning. -/
  | vmin (e : Nat)
  /-- R91. VEC VABS takes the absolute value. -/
  | vabs (e : Nat)
  /-- R91. VEC VNEG negates. -/
  | vneg (e : Nat)
  /-- R91. VEC VRCP computes 1/a at quarter rate. -/
  | vrcp (e : Nat)
  /-- R91. VEC VRSQ computes 1/√a at quarter rate. -/
  | vrsq (e : Nat)
  /-- R91. VEC VSQRT computes √a at quarter rate. -/
  | vsqrt (e : Nat)
  /-- R91. VEC VEXP2 computes 2^a at quarter rate. -/
  | vexp2 (e : Nat)
  /-- R91. VEC VLOG2 computes log₂ a at quarter rate. -/
  | vlog2 (e : Nat)
  /-- R91. VEC VCVT converts elements from SFMT to DFMT. -/
  | vcvt (e : Nat)
  /-- R121. RED RSUM sums elements in a fixed pairwise order. -/
  | rsum (e : Nat)
  /-- R121. RED RSUMSQ sums the squares. -/
  | rsumsq (e : Nat)
  /-- R122. RED RMAX returns the largest element and its index. -/
  | rmax (e : Nat)
  /-- R122. RED RMIN returns the smallest element and its index. -/
  | rmin (e : Nat)
  /-- R122. RED RAMAX returns the largest magnitude and its index. -/
  | ramax (e : Nat)
  /-- R140. QNT SCAN folds wide data into range records. -/
  | scan (e : Nat)
  /-- R142. QNT CONVERT derives scales and writes codes and scale records. -/
  | convert (e : Nat)
  /-- R143. QNT EXPAND turns codes and scales back into wide data. -/
  | expand (e : Nat)
  /-- R140. QNT RMERGE folds arrays of range records into one. -/
  | rmerge (e : Nat)
  /-- R108. MAT SCLR sets n Slots to zero in a given mode and clears their metadata. -/
  | sclr (e : Nat)
  /-- R104. MAT TLOAD begins loading Tile images into the shadow registers of the named Vanes. -/
  | tload (e : Nat)
  /-- R104. A shadow becomes FULL when its load ends, or an FP32 Tile becomes active. -/
  | tileLoadComplete (e v : Nat)
  /-- R105. MAT TSWAP requests that the shadow Tile become active. -/
  | tswap (e : Nat)
  /-- R105. The swap takes effect once the shadow is FULL and earlier MMA rows have entered. -/
  | tswapEffect (e : Nat)
  /-- R111. MAT MMA streams activation rows through the named Vanes into Slots. -/
  | mma (e : Nat)
  /-- R98. An activation row enters a Vane's pipeline and its sum is added into its Slot 11 cycles later. -/
  | rowEntry (e : Nat) (mismatch : BitVec 8)
  /-- R115. MAT DRAIN turns Slots into output rows in Lee or on a fabric port. -/
  | drain (e : Nat)
  /-- R115. MAT DRAINCLR drains the Slots and then clears them. -/
  | drainclr (e : Nat)
  /-- R117. The drain reads a Slot once its earlier products are in, and writes the row 8 cycles later. -/
  | drainSlotRead (e : Nat)
  /-- R115. MAT CSAVE writes a Vane's CSUM to Lee. -/
  | csave (e : Nat)
  /-- R186. COD FURL queues a Furl job described in Lee. -/
  | furl (e : Nat)
  /-- R186. COD UNFURL queues an Unfurl job described in Lee. -/
  | unfurl (e : Nat)
  /-- R186. COD CWAIT waits, with acquire semantics, until a job is DONE. -/
  | cwait (e : Nat)
  /-- R187. A codec unit accepts a job, checks its descriptor, and runs it or ends it at once. -/
  | codJobAccept (u : Nat)
  /-- R187. A unit starts its next accepted job once the job before it has ended. -/
  | codJobStart (u : Nat)
  /-- R185. An Unfurl job whose destination is a tile feed binds the feed, or waits until it is free. -/
  | feedBind (u : Nat)
  /-- R173. A coded Furl block is verified and released, or stored with VFB set. -/
  | furlBlockRelease (u : Nat)
  /-- R174. A held Furl block is written with LAST set or clear once it is known whether another follows. -/
  | furlBlockWrite (u : Nat)
  /-- R180. A frame or block header arrives and is checked before any field is used. -/
  | unfurlHeader (u : Nat)
  /-- R177. A decoded block is released after its DCRC check, poisoned in place on a mismatch. -/
  | unfurlBlockRelease (u : Nat)
  /-- R190. After its last output byte meets its destination, a job writes its completion record and signals its Gate. -/
  | codJobEnd (u : Nat)
  /-- R202. STR ARM checks and arms a transfer in the active slot. -/
  | arm (e : Nat)
  /-- R203. STR REARM places a transfer in the pending slot, or in the active slot of an idle stream. -/
  | rearm (e : Nat)
  /-- R205. STR SWAIT waits until at most N transfers remain armed. -/
  | swait (e : Nat)
  /-- R205. STR RWAIT waits until a ring holds b published bytes or is marked END. -/
  | rwait (e : Nat)
  /-- R208. STR RFREE advances a ring's read index, or is refused with RING_UNDER. -/
  | rfree (e : Nat)
  /-- R206. STR SSTAT returns a stream's status word without waiting. -/
  | sstat (e : Nat)
  /-- R214. The stream engine grants up to 8 transfers per Lee cycle, each to a different output. -/
  | streamGrant (n : Nat)
  /-- R211. An output's arbiter grants the request with the smallest TTE, or the one whose count reached 1,023. -/
  | arbiterGrant (out : Nat) (reqs : List (Nat × Nat))
  /-- R207. Once every byte of an element is written, the ring's write index advances by the element bytes. -/
  | ringPublish (sid : Nat)
  /-- R209. An active transfer recomputes its TTE every Lee cycle. -/
  | tteTick (n : Nat)
  /-- R210. A TTE that reaches 0 with bytes remaining, or an RWAIT that must wait, raises DEADLINE_MISS once per transfer. -/
  | deadlineMiss (sid : Nat)
  /-- R219. A binary-search translation of a remote page succeeds or fails. -/
  | pageTranslationDone (sid : Nat)
  /-- R221. A failed translation or a store refusal stalls the transfer at a resume cursor after pending answers arrive. -/
  | streamFault (sid : Nat)
  /-- R204. A transfer completes once its bytes meet their destination condition; it records status and signals its Gate. -/
  | transferComplete (sid : Nat)
  /-- R203. A pending transfer becomes active exactly 1 Lee cycle after the active one completes. -/
  | pendingActivate (sid : Nat)
  /-- R223. A write of RESUME retranslates from the cursor of a stalled stream. -/
  | strCmdResume (sid : Nat)
  /-- R224. A write of ABORT truncates the active transfer and discards the pending one. -/
  | strCmdAbort (sid : Nat)
  /-- R228. A write that sets VALID makes Windsock check the context table, which it refuses when unsorted. -/
  | xltCtxValid (c : Nat) (w : BitVec 32)
  /-- R235. The bank ALU applies an atomic or a plain write of a fabric message granule by granule, subject to R237. -/
  | atomicApply (f : Nat)
  /-- R240. A contribution-end flag adds 1 to COUNT once its adds are applied. -/
  | contributionEnd (f : Nat)
  /-- R239. An STS that sets ARM on ARMWORD is checked at the bank and arms the Region, or is refused. -/
  | reduceArm (rid : Nat)
  /-- R242. A ZERO over a range ends; a zeroing arm becomes ARMED and releases the adds it held. -/
  | zeroEnd (rid : Nat)
  /-- R243. Every INTERVAL Lee cycles a bank scrubs one bank word and writes back corrections. -/
  | scrubTick (e b : Nat)
  /-- R246. A stash Furl job takes the port's next stash-class flit in sequence, or ends with STASH_SEQ. -/
  | stashFlitTake (u : Nat)
  /-- R277. A DATA flit arrives on a VC and is accepted, discarded as a duplicate, or answered with a NAK. -/
  | linkFlitReceive (l : Nat) (flit : BitVec 4096) (corr : List (Nat × Nat))
  /-- R271. An uncorrectable codeword discards the flits it overlaps and sends NAKs. -/
  | uncorrectableCodeword (l lost : Nat)
  /-- R279. An entry unacknowledged for 8 µs is replayed. -/
  | replayTimeout (l vc : Nat)
  /-- R279. The link sends a DATA flit when it holds credit and replay room, or an IDLE flit otherwise. -/
  | linkFlitSend (l : Nat)
  /-- R285. Crossing a catch-queue threshold, or a link state change, sets or clears PAUSE in sent headers. -/
  | pause (l : Nat)
  /-- R287. The controller writes a VC0 packet into the catch queue. -/
  | catchQueueWrite (l : Nat)
  /-- R287. The consumer reads a word, or a Lull item from an empty queue. -/
  | catchQueueRead (l : Nat)
  /-- R288. DROP_PACKET discards the rest of the current packet. -/
  | dropPacket (l : Nat)
  /-- R293. A segment's output lands, setting its bitmap bit and adding 1 to LANDED, or is marked damaged. -/
  | segLand (l : Nat)
  /-- R295. A PASS_END packet makes the block send WS_REFETCH for the gaps under REFETCH 0b01 or 0b10. -/
  | passEnd (l : Nat)
  /-- R281. A READ_RSP frees its read tag and delivers data, a refusal, or a PROTOCOL discard. -/
  | readRsp (l : Nat)
  /-- R283. A WRITE_REFUSE stalls the active transfer or records 0x117. -/
  | writeRefuse (l : Nat)
  /-- R282. A read tag outstanding past its lifetime is freed and treated as a store refusal. -/
  | tagTimeout (l tag : Nat)
  /-- R304. A SEAL flit verifies its group's tag and delivers the group, or discards it with AUTH_FAIL. -/
  | sealReceive (l : Nat)
  /-- R305. A KEY_SWITCH packet changes the key slot from the named group, or is discarded. -/
  | keySwitch (l : Nat)
  /-- R301. A lane is retired through HOLD, replay drain and retraining without it. -/
  | laneRetire (l lane : Nat)
  /-- R297. The block trains a link through steps 1–5 until UP. -/
  | linkTraining (l : Nat)
  /-- R298. A TS1, TS2 or END training word arrives and advances training. -/
  | trainingWord (l lane : Nat) (w : BitVec 256)
  /-- R297. A link not UP 200 ms after step 1 ends training DOWN with 0x405. -/
  | trainFail (l : Nat)
  /-- R299. A fall of an active lane's LNK_PHY_RDY bit retrains the link. -/
  | phyRdyFall (l lane : Nat)
  /-- R299. 10 µs without an intact flit retrains the link. -/
  | noIntactFlit (l : Nat)
  /-- R299. A retrain runs steps 2–5 and counts against one lane. -/
  | laneRetrain (l lane : Nat)
  /-- R300. At the end of each 100 ms window, lanes whose corrections exceed the limit count toward qualification. -/
  | serWindow (l : Nat)
  /-- R302. A link goes DOWN, ending its transfers and jobs with 0x404. -/
  | linkDown (l : Nat)
  /-- R297. A write of TRAIN trains a DOWN link. -/
  | lnkCmdTrain (l : Nat)
  /-- R299. A write of RETRAIN retrains an UP link. -/
  | lnkCmdRetrain (l : Nat)
  /-- R301. A write of RETIRE retires the named lane. -/
  | lnkCmdRetire (l lane : Nat)
  /-- R307. A write of CLR_COUNTS clears the link window's counters. -/
  | lnkCmdClrCounts (l : Nat)
  /-- R290. The range_arm command checks a range descriptor and arms the range. -/
  | rangeArm (src : Nat)
  /-- R290. The range_free command frees a landing range. -/
  | rangeFree (src : Nat)
  /-- R308. A write of CLR_STAT clears WS.STAT. -/
  | wsCtrlClrStat
  /-- R315. An inbound flit is captured, takes a receive entry, and advances framing. -/
  | fabricFlitReceive (f cls : Nat) (flit : BitVec 2304)
  /-- R323. An inbound message is routed by REGION and applied, or discarded whole. -/
  | fabricMessage (f : Nat)
  /-- R325. An inbound GSIG signals its Gate after the earlier flits, or is discarded with 0x505. -/
  | fabricGsig (f : Nat)
  /-- R326. A BOOT_DATA message answering a request is written into Windsock SRAM. -/
  | bootData (f : Nat)
  /-- R317. A credit-return bit adds one send credit, or resets the port above 32. -/
  | fabricCreditReturn (f c : Nat)
  /-- R318. A flit passing into the fabric baffle returns its credit. -/
  | fabricCreditFree (f c : Nat)
  /-- R322. Each fabric cycle the port sends one flit of a class that holds credit, chosen by TTE. -/
  | fabricFlitSend (f : Nat)
  /-- R321. A message whose source ends early is completed with poisoned zero granules. -/
  | padded (f c : Nat)
  /-- R328. A DOWN port becomes UP after 16 cycles of both FAB_UP and FAB_PEER_UP high. -/
  | portUp (f : Nat)
  /-- R329. A low FAB_PEER_UP takes the port DOWN and ends its transfers with 0x504. -/
  | peerDown (f : Nat)
  /-- R330. A port reset holds FAB_UP low and applies the DOWN handling. -/
  | portReset (f : Nat)
  /-- R330. After exactly 64 fabric cycles the port raises FAB_UP again. -/
  | portResetEnd (f : Nat)
  /-- R330. A write of RESET resets the port. -/
  | fabCmdReset (f : Nat)
  /-- R332. A write of CLR_COUNTS clears the port counters. -/
  | fabCmdClrCounts (f : Nat)
  /-- R328. A write of DIS lowers FAB_UP and takes an UP port DOWN at once. -/
  | fabCfgDis (f : Nat) (dis : Bool)
  /-- R19. A seam beat is released once every active channel has delivered its part. -/
  | seamBeatRelease (east : Bool) (errs : List (Nat × BitVec 144))
  /-- R344. A channel part missing 64 port cycles after the beat's first part is completed poisoned, and the channel is retired. -/
  | beatPartMissing (east : Bool) (ch : Nat)
  /-- R344. The seam error window restarts every 180,000,000 port cycles. -/
  | seamWindow
  /-- R345. A channel is retired by the five-step switch-over and the map is updated. -/
  | seamRetired (ch : Nat)
  /-- R358. A write of RETIRE retires the named channel. -/
  | seamCmdRetire (ch : Nat)
  /-- R22. A write of CLR_COUNTS clears every seam correction count. -/
  | seamCtrlClrCounts
  /-- R342. An uncontained error stops the Flow job as R42 states. -/
  | uncontainedStop
  /-- R437. A job ends; the Dispatcher writes its report and posts a job-end entry. -/
  | jobEnd (vaneFails : List (Nat × Nat))
  /-- R351. A unit reports an event, which waits, merges or is lost. -/
  | eventReport (source code : Nat) (detail : BitVec 128)
  /-- R352. The log takes a waiting report, coalescing it into an open record or appending it. -/
  | eventAppend
  /-- R353. A write of EVT.RD_SEQ within range advances the read point. -/
  | evtRdSeqWrite (v : BitVec 32)
  /-- R356. A write of CLR_LOST clears EVT.LOST. -/
  | evtCtrlClrLost
  /-- R356. A write of CLR_LOG sets RD_SEQ to WR_SEQ. -/
  | evtCtrlClrLog
  /-- R357. A write of CLR_COUNTS clears the fault correction counters. -/
  | fltCtrlClrCounts
  /-- R8. A write of 1 clears W1C bits such as EDDY.FAULT.VALID, OVF, FIRST_VALID or JOBEND. -/
  | w1cWrite (addr v : BitVec 32)
  /-- R95. A write clears EDDY.IMEM_ERR. -/
  | eddyCtrlClrImemErr (e : Nat)
  /-- R127. A write clears every Vane residue count. -/
  | eddyMatCtrlClrResidue (e : Nat)
  /-- R127. A write clears EDDY.MAT_FLAGS. -/
  | eddyMatCtrlClrFlags (e : Nat)
  /-- R155. A write clears EDDY.QNT_STAT. -/
  | eddyQntCtrlClrStat (e : Nat)
  /-- R192. A write clears the codec unit's counters. -/
  | codCtrlClrCounts (u : Nat)
  /-- R249. A write clears the Lee scrub, atomic and bank counters. -/
  | leeCtrlClrCounts (n : Nat)
  /-- R5. A write to a register with no behaviour of its own sets RW fields, or RWL fields before the lock. -/
  | registerWrite (addr v : BitVec 32)
  /-- R367. Release of cold reset samples the straps and begins start stage S0 with cold-cleared state. -/
  | rstColdN (straps : BitVec 32)
  /-- R368. Release of warm reset begins S0, keeping the state that R368 keeps. -/
  | rstWarmN (straps : BitVec 32)
  /-- R369. A reset falling stops any job at once and holds outputs at their reset values. -/
  | resetAssert (cold : Bool)
  /-- R370. A start stage ends, and the next begins or the attempt fails. -/
  | startStageEnd (bad : List (Nat × Nat))
  /-- R362. A PLL reaches lock during S0. -/
  | pllLock (pll : Nat)
  /-- R371. A stage running 2 s fails the attempt with 0x80C. -/
  | stageTimeout
  /-- R366. A write of 1 to START.LOCK sets the configuration lock. -/
  | startLock
  /-- R372. A write to START.BOOT_PORT adds the next image word during S2. -/
  | bootPort (w : BitVec 32)
  /-- R372. A write to START.BOOT_GO ends the image transfer and starts verification. -/
  | bootGo (len : BitVec 32)
  /-- R381. A millisecond check finds a Task WAITING past its watchdog time and ends the job with 0x810. -/
  | watchdog
  /-- R387. Every 100 µs the block sets each Current's Gale step from its ceilings. -/
  | powerInterval (budget : BitVec 16)
  /-- R386. A Gale PLL completes its glide to a new step. -/
  | glideEnd (n : Nat)
  /-- R390. A fall of PWR_DROOP_N halves every running Gale clock within 20 ns. -/
  | droop
  /-- R390. After the pin is high for 1 µs, the divider restores the frequency in four stages 250 ns apart. -/
  | droopRestoreStage
  /-- R392. Each 1 µs the block forms the domain current estimates. -/
  | estimateTick (d : Nat) (amps : BitVec 16)
  /-- R394. Every 10 µs a thermal sensor reads, or is marked invalid with 0x825. -/
  | sensorRead (sensor : Nat) (v : BitVec 11) (ok : Bool)
  /-- R396. A reading of 110 °C or more enters Hold within 20 µs. -/
  | thermalHold (sensor : Nat)
  /-- R396. After 10 ms below 100 °C the block leaves Hold at 1,200 MHz. -/
  | holdExit
  /-- R393. The Dispatcher turns on the Vanes of one Eddy every 32 Gale cycles. -/
  | vanePowerStep (n : Nat)
  /-- R399. A write clears PWR.COUNTS. -/
  | pwrCtrlClrCounts
  /-- R397. The current_gate command powers a Current off between jobs. -/
  | currentGate (src : Nat)
  /-- R397. The current_ungate command powers a Current on again. -/
  | currentUngate (src : Nat)
  /-- R389. The power_budget command sets the software budget and clears the limits. -/
  | powerBudget (src : Nat)
  /-- R403. The lifecycle_prod command moves DEV to PROD, optionally enrolling an owner key. -/
  | lifecycleProd (src : Nat) (blows : BitVec 8)
  /-- R403. The lifecycle_rma command moves to RMA under an RMA token. -/
  | lifecycleRma (src : Nat) (blows : BitVec 8)
  /-- R403. The lifecycle_scrap command moves to SCRAP and clears the key slots. -/
  | lifecycleScrap (src : Nat) (blows : BitVec 8)
  /-- R403. A write through the IEEE 1687 FUSE instrument blows fuses, such as BLANK to DEV. -/
  | fuseWrite (word : Nat) (v : BitVec 32) (blows : BitVec 8)
  /-- R407. The rollback_advance command blows rollback fuses up to a target. -/
  | rollbackAdvance (src : Nat)
  /-- R408. The root_revoke command blows a root key's revocation fuse. -/
  | rootRevoke (src : Nat)
  /-- R410. The key_load command unwraps a blob into a key slot. -/
  | keyLoad (src : Nat)
  /-- R410. A write of SEC.KEY_COMMIT.GO commits a slot from the key registers, or is refused. -/
  | keyCommit (v : BitVec 32)
  /-- R412. The context_assign command gives a translation context to a tenant. -/
  | contextAssign (src : Nat)
  /-- R415. A write of GO starts a debug-level request with signature verification. -/
  | dbgReq (v : BitVec 32)
  /-- R416. When verification ends, the level is granted, after stop and zeroing for Full, or the request fails. -/
  | debugGrant
  /-- R415. A write of NEW_NONCE draws a fresh nonce. -/
  | newNonce
  /-- R416. A write of DROP returns to Closed or to the free level. -/
  | dbgDrop
  /-- R415. A nonce expires 10 s after it was drawn. -/
  | nonceExpiry
  /-- R419. An IEEE 1500 wrapper instruction is loaded, subject to the debug level. -/
  | wrapperInstruction (v : BitVec 4)
  /-- R420. An IEEE 1687 instrument access reads or writes, or halts and steps an Eddy. -/
  | dapAccess (op target : Nat) (data : BitVec 128)
  /-- R425. A management-port request is answered with MGT_ACK, or MGT_ERR outside every window. -/
  | mgtReq (we : Bool) (addr wdata : BitVec 32)
  /-- R426. A write of EN enables a command ring after checks, or disables it. -/
  | ringCfgEn (r : Nat) (v : BitVec 32)
  /-- R427. A write to DSP.DB sets a ring's command tail, or stops the ring with RING_OVER. -/
  | doorbell (r : Nat) (tail : BitVec 16)
  /-- R430. Windsock takes the next command of a source round-robin when a slot and completion room exist. -/
  | commandTake (src : Nat)
  /-- R428. Windsock writes a completion entry and advances CPL_TAIL, or drops an event entry. -/
  | completionWrite (r : Nat)
  /-- R428. A write of CPL_HEAD within range advances the host's read point. -/
  | cplHeadWrite (r : Nat) (v : BitVec 16)
  /-- R433. A write of GO submits the mailbox as a command. -/
  | mboxGo
  /-- R434. An access to DSP.LEE_DATA reads or writes 4 B of a Region and advances the offset. -/
  | leeData (we : Bool) (v : BitVec 32)
  /-- R432. The caps command writes the capability record to Lee. -/
  | caps (src : Nat)
  /-- R38. The region_alloc command allocates a Region with the lowest free ID, or refuses. -/
  | regionAlloc (src : Nat)
  /-- R38. The region_free command frees a Region, or refuses with REGION_BUSY. -/
  | regionFree (src : Nat)
  /-- R242. The region_zero command zeroes a range of a Region. -/
  | regionZero (src : Nat)
  /-- R239. The host reduce_arm command arms a REDUCE Region. -/
  | reduceArmCommand (src : Nat)
  /-- R202. The host stream_arm command arms a stream. -/
  | streamArm (src : Nat)
  /-- R203. The host stream_rearm command rearms a stream. -/
  | streamRearm (src : Nat)
  /-- R223. The host stream_resume command resumes a stalled stream. -/
  | streamResume (src : Nat)
  /-- R224. The host stream_abort command aborts a stream. -/
  | streamAbort (src : Nat)
  /-- R450. The host gate_signal command signals a Gate, or is refused with CMD_ARG. -/
  | gateSignal (src : Nat)
  /-- R187. The host furl command queues a Furl job. -/
  | furlCommand (src : Nat)
  /-- R187. The host unfurl command queues an Unfurl job. -/
  | unfurlCommand (src : Nat)
  /-- R436. The job_start command checks a job image, loads it and starts every Task. -/
  | jobStart (src : Nat)
  /-- R42. The job_abort command stops the running job. -/
  | jobAbort (src : Nat)
  /-- R438. An MCTP message over I3C is answered, carrying a control, vendor or debug exchange. -/
  | mctpMessage (msg : List (BitVec 8))
  /-- R439. A PLDM command is answered from the sensor readings, or with ERROR_UNSUPPORTED_PLDM_CMD. -/
  | pldmCommand (msg : List (BitVec 8))
  /-- R438. SETDASA or ENTDAA assigns the block's I3C dynamic address. -/
  | dynamicAddress (a : BitVec 7)
  /-- R299. A retrain that does not complete steps 2 to 5 within 1 ms fails, and the block retires the lane it counted against, or takes the link DOWN when no lane is left to retire. -/
  | retrainFail (l : Nat)
  /-- R297. A rise of an LNK_PHY_RDY bit makes a lane usable, so training step 1, which waits for MIN_LANES usable lanes, can go on. -/
  | phyRdyRise (l lane : Nat)
deriving DecidableEq, Repr

end Sys2Proof
end

