-- ==== Sys2Proof/Decode.lean ====
section
/-! DEFINITION. Commands from words. The opcode table gives no row any bits: the commands of the block arrive as accesses
of its ports, as protocol traffic and as steps of its own units, and none is spelled by a word. -/

namespace Sys2Proof

/-- The command that a word of nbits spells by the table's bits: none, for the table gives no row bits. -/
def decodeTableWord (_nbits _w : Nat) : Option Instr := none

end Sys2Proof
end

