-- ==== Sys2Proof/Machine/Bits.lean ====
section
/-! DEFINITION. Bit fields, sign extension, byte order (R4: little-endian), saturating counts. -/

namespace Sys2Proof.Machine

/-- Bits hi down to lo of a number. -/
def fld (x hi lo : Nat) : Nat := (x >>> lo) % 2 ^ (hi + 1 - lo)

/-- One bit of a number. -/
def bit (x i : Nat) : Bool := (x >>> i) % 2 == 1

/-- x with bits hi down to lo replaced by v. -/
def setFld (x hi lo v : Nat) : Nat := x - fld x hi lo <<< lo + (v % 2 ^ (hi + 1 - lo)) <<< lo

/-- A flag as a number. -/
def b2n (b : Bool) : Nat := if b then 1 else 0

/-- The two's complement value of the low w bits of x. -/
def signed (w x : Nat) : Int :=
  let y := x % 2 ^ w
  if bit y (w - 1) then (y : Int) - (2 ^ w : Nat) else (y : Int)

/-- The low w bits of a signed value. -/
def unsignedOf (w : Nat) (x : Int) : Nat := (x % ((2 ^ w : Nat) : Int)).toNat

/-- A count that saturates at w ones. -/
def satAdd (w a n : Nat) : Nat := min (a + n) (2 ^ w - 1)

/-- Bytes to a number, the first byte least significant (R4). -/
def leNat : List Byte → Nat
  | [] => 0
  | b :: r => b.toNat + 256 * leNat r

/-- The n low bytes of a number, least significant first (R4). -/
def leBytes : Nat → Nat → List Byte
  | 0, _ => []
  | n + 1, x => BitVec.ofNat 8 x :: leBytes n (x / 256)

/-- x rounded up to a multiple of m. -/
def roundUpTo (x m : Nat) : Nat := (x + m - 1) / m * m

/-- The number of set bits among the low n bits. -/
def popBits : Nat → Nat → Nat
  | 0, _ => 0
  | n + 1, x => x % 2 + popBits n (x / 2)

/-- The positions of the set bits among the low n bits, ascending. -/
def setBits (n x : Nat) : List Nat := (List.range n).filter (bit x)

/-- The list cut into pieces of n (the last may be short); fuel bounds the number of pieces. -/
def chunks {α : Type} : Nat → Nat → List α → List (List α)
  | 0, _, _ => []
  | _, _, [] => []
  | f + 1, n, l => l.take n :: chunks f n (l.drop n)

/-- The list with its i-th entry replaced, unchanged when there is none. -/
def setAt {α : Type} (l : List α) (i : Nat) (v : α) : List α := l.set i v

/-- The list without its i-th entry. -/
def dropAt {α : Type} (l : List α) (i : Nat) : List α := l.take i ++ l.drop (i + 1)

/-- The granule made of 16 bytes. -/
def granuleOf (l : List Byte) : Granule := BitVec.ofNat 128 (leNat l)

/-- The 16 bytes of a granule. -/
def granuleBytes (g : Granule) : List Byte := leBytes 16 g.toNat

end Sys2Proof.Machine
end

