-- ==== Sys2Proof/Config.lean ====
section
/-! DEFINITION. What the manual leaves open, as uninterpreted constants: no proof can see a value of one. Log entries
name each. -/

namespace Sys2Proof.Config

/-- The 32-bit result that a vector function (by OP) proposes for an operand; used only within the two units in the
last place of R92 (log 13). -/
opaque vecApprox : Nat → Word → Word

/-- Which pair the fixed pairwise order of R122 adds next, from the number of values in all and of values left (log
15). -/
opaque pairPick : Nat → Nat → Nat

/-- The order in which the adder tree of R98 pairs its 64 leaves (log 15). -/
opaque treePick : Nat → Nat

/-- The compensated pair that FP32C keeps for the exact sum of the old pair and a term (log 16). -/
opaque compPair : Word → Word → Bool → Nat → Nat → Word × Word

/-- The payload that Furl's encoder proposes for a block under a mode byte and the expert fields DEPTH_LOG, HASH and
WINDOW, after the frame's earlier bytes (log 12). -/
opaque furlPayload : (mode depth hash window : Nat) → (hist block : List Byte) → List Byte

/-- What a sum or magnitude leaves in a result of 32 or 64 bits that does not hold it (R103 and R121 state no value; log
24). -/
opaque intOver : (width : Nat) → Int → DWord

/-- The quotient of a zero element by a +0 scale, as FP32 bits (R142 forms x / s, and no rule gives 0 / 0; log 34). -/
opaque zeroOverZero : Word

/-- A 64-bit value that the manual leaves open, by the model's count of such values (log 20). -/
opaque freeValue : Nat → DWord

/-- The status code of the uncontained error with which a transfer ends that must cross a seam without an active channel
(R21 names none; log 31). -/
opaque seamLostCode : Nat

/-- The status code of the event that a change of the capability record records where no rule names one (R58; log 146). -/
opaque recordCode : Nat

/-- Eutric's IANA enterprise number, WSK.ID.PEN (R440 gives no value; log 6). -/
opaque eutricPen : Word

/-- The device secret in fuses from which W0 is derived, as the wrap key that results (R409; log 11). -/
opaque deviceKey : BitVec 256

/-- The four Eutric root public keys, x then y (R408; log 11). -/
opaque rootKey : Nat → Nat × Nat

/-- The Eutric debug public key (R408; log 11). -/
opaque debugKey : Nat × Nat

/-- The version word that Get MCTP Version Support returns for a message type, and that GetPLDMVersion returns for a PLDM
type above 256 (R438 and R439 name the standards without a version; log 53). -/
opaque mctpVersion : Nat → Word

/-- The platform descriptor record of a sensor, by its place in the table of R439 (which gives no record; log 53). -/
opaque pdrRecord : Nat → List Byte

/-- The time stamps of GetPDRRepositoryInfo, 26 bytes (log 53). -/
opaque pdrTimes : BitVec 208

end Sys2Proof.Config
end

