-- ==== Sys2Proof/Machine/FurlFormat.lean ====
section
/-! DEFINITION. The Furl format: checksums, headers, the entropy decoder, matches, and the coding of one block (R159 to
R172). -/

namespace Sys2Proof.Machine

/-! ## CRC-32C (R162) -/

/-- Eight steps of the reflected polynomial. -/
def crcStep : Nat → Nat → Nat
  | 0, c => c
  | k + 1, c => crcStep k (if c % 2 = 1 then (c / 2).xor 0x82F63B78 else c / 2)

/-- The running CRC over bytes. -/
def crcRun : Nat → List Byte → Nat
  | c, [] => c
  | c, x :: r => crcRun (crcStep 8 (c.xor x.toNat)) r

/-- CRC-32C of bytes in ascending address order. -/
def crc32c (l : List Byte) : Nat := (crcRun 0xFFFFFFFF l).xor 0xFFFFFFFF

/-! ## Headers (R160, R161) -/

/-- A frame header. -/
def frameHeader (kind streamId frameNo : Nat) : List Byte :=
  let h := leBytes 4 0x4C525546 ++ leBytes 1 1 ++ leBytes 1 kind ++ leBytes 2 streamId ++ leBytes 4 frameNo ++
    leBytes 16 0
  h ++ leBytes 4 (crc32c h)

/-- The frame header is valid; its KIND. -/
def frameKind (l : List Byte) : Option Nat :=
  let v (o n : Nat) := leNat ((l.drop o).take n)
  if v 0 4 = 0x4C525546 ∧ v 4 1 = 1 ∧ v 5 1 ≤ 1 ∧ v 12 16 = 0 ∧ v 28 4 = crc32c (l.take 28) then some (v 5 1) else none

/-- A block header. -/
def blockHeader (mode tag raw coded dcrc : Nat) : List Byte :=
  let h := leBytes 1 mode ++ leBytes 1 tag ++ leBytes 2 raw ++ leBytes 2 coded ++ leBytes 2 0 ++ leBytes 4 dcrc
  h ++ leBytes 4 (crc32c h)

/-- A byte count that R161 allows. -/
def blockSizeOk (n : Nat) : Bool := decide (16 ≤ n) && decide (n ≤ 4096) && n % 16 == 0

/-- The fields of a valid block header: mode with NIB, LAST, TAG, RAW_BYTES, CODED_BYTES, DCRC. -/
def blockFields (l : List Byte) : Option (Nat × Bool × Nat × Nat × Nat × Nat) :=
  let v (o n : Nat) := leNat ((l.drop o).take n)
  let m := v 0 1
  let raw := v 2 2
  let coded := v 4 2
  if m / 32 = 0 ∧ m % 4 ≠ 3 ∧ (bit m 2 = true → m % 4 = 1) ∧ v 6 2 = 0 ∧ blockSizeOk raw = true ∧
      blockSizeOk coded = true ∧ (if m % 4 = 0 then coded = raw else coded < raw) ∧ v 12 4 = crc32c (l.take 12) then
    some (m % 8, bit m 4, v 1 1, raw, coded, v 8 4)
  else none

/-! ## Bits (R165) -/

/-- Bytes as bits to read: the value with the first bit most significant, and the number of bits. -/
structure BitSrc where
  val : Nat
  len : Nat
deriving DecidableEq, Repr

/-- Bytes to read from. -/
def bitSrc (l : List Byte) : BitSrc := ⟨l.foldl (fun a x => 256 * a + x.toNat) 0, 8 * l.length⟩

/-- read(n) at a position: the value and the next position, or nothing past the end. -/
def readBits (s : BitSrc) (pos n : Nat) : Option (Nat × Nat) :=
  if pos + n ≤ s.len then some (s.val >>> (s.len - pos - n) % 2 ^ n, pos + n) else none

/-! ## The count description and the table (R166) -/

/-- The number of 0 bits up to the next 1 bit, and the position after it; fuel bounds the zeros. -/
def countZeros : Nat → BitSrc → Nat → Nat → Option (Nat × Nat)
  | 0, _, _, _ => none
  | k + 1, s, pos, z =>
    match readBits s pos 1 with
    | none => none
    | some (1, p) => some (z, p)
    | some (_, p) => countZeros k s p (z + 1)

/-- The counts of n symbols. -/
def readCounts : Nat → BitSrc → Nat → Option (List Nat × Nat)
  | 0, _, pos => some ([], pos)
  | n + 1, s, pos =>
    match countZeros 13 s pos 0 with
    | none => none
    | some (z, p) =>
      match readBits s p z with
      | none => none
      | some (v, q) =>
        match readCounts n s q with
        | none => none
        | some (r, e) => some ((2 ^ z + v - 1) :: r, e)

/-- The symbol whose run of places holds place i. -/
def symbolAt : List Nat → Nat → Nat → Nat
  | [], s, _ => s
  | c :: r, s, i => if i < c then s else symbolAt r (s + 1) (i - c)

/-- An entry of the decoding table: symbol, nb, base. -/
abbrev AnsEntry := Nat × Nat × Nat

/-- The floor of log2, at most 12. -/
def log2Nat : Nat → Nat → Nat
  | 0, _ => 0
  | k + 1, n => if n < 2 then 0 else log2Nat k (n / 2) + 1

/-- The table from state x on, given how often each symbol has come: 171 undoes the step of 2,563 places. -/
def ansEntries (counts : List Nat) : Nat → Nat → List Nat → List AnsEntry
  | 0, _, _ => []
  | k + 1, x, next =>
    let s := symbolAt counts 0 (x * ansInverse % 4096)
    let n := next.getD s 0
    let nb := 12 - log2Nat 13 n
    (s, nb, n * 2 ^ nb - 4096) :: ansEntries counts k (x + 1) (next.set s (n + 1))
where
  ansInverse : Nat := 171

/-- The decoding table of 4,096 states. -/
def ansTable (counts : List Nat) : Array AnsEntry := (ansEntries counts 4096 0 counts).toArray

/-! ## Decoding (R167, R168) -/

/-- The initial states. -/
def readStates : Nat → BitSrc → Nat → Option (List Nat × Nat)
  | 0, _, pos => some ([], pos)
  | n + 1, s, pos =>
    match readBits s pos 12 with
    | none => none
    | some (v, p) => (readStates n s p).map (fun r => (v :: r.1, r.2))

/-- A match copied byte by byte, most recent byte first. -/
def copyMatch : Nat → Nat → List Byte → List Byte
  | 0, _, out => out
  | n + 1, d, out => copyMatch n d (out.getD (d - 1) 0 :: out)

/-- The length and distance of a match symbol, and the next position. -/
def readMatch (s : BitSrc) (pos lc : Nat) : Option (Nat × Nat × Nat) :=
  let n := if lc < 16 then 0 else lc - 12
  match readBits s pos n with
  | none => none
  | some (v, p) =>
    match readBits s p 16 with
    | none => none
    | some (d, q) => some (if lc < 16 then 4 + lc else 4 + 2 ^ n + v, d + 1, q)

/-- The symbols from number i on: states of the lanes, position, output with the latest byte first, bytes of this
block so far; a distance above `far` is malformed. -/
def decodeSyms (t : Array AnsEntry) (s : BitSrc) (total raw far : Nat) :
    Nat → Nat → List Nat → Nat → List Byte → Nat → Option (List Byte × Nat × Nat)
  | 0, _, _, pos, out, done => some (out, pos, done)
  | k + 1, i, xs, pos, out, done =>
    let e := t.getD (xs.getD (i % 16) 0) (0, 0, 0)
    let after : Option (List Byte × Nat × Nat) :=
      if e.1 < 256 then some (BitVec.ofNat 8 e.1 :: out, pos, done + 1)
      else
        match readMatch s pos (e.1 - 256) with
        | none => none
        | some (len, d, p) =>
          if out.length < d ∨ far < d ∨ raw < done + len ∨ 4096 < len then none else some (copyMatch len d out, p, done + len)
    match after with
    | none => none
    | some (out, p, done) =>
      if i + 16 < total then
        match readBits s p e.2.1 with
        | none => none
        | some (v, q) => decodeSyms t s total raw far k (i + 1) (xs.set (i % 16) (e.2.2 + v)) q out done
      else decodeSyms t s total raw far k (i + 1) xs p out done

/-- Nibbles joined to bytes, element 0 in the low half (R130). -/
def joinNibbles : List Byte → List Byte
  | a :: b :: r => (a ||| b <<< 4) :: joinNibbles r
  | _ => []

/-- An entropy payload decoded: the block's bytes, or nothing when it is malformed (R164 to R168). -/
def decodeEntropy (far mode raw : Nat) (hist payload : List Byte) : Option (List Byte) :=
  let v (o n : Nat) := leNat ((payload.drop o).take n)
  let nib := bit mode 2
  let matches' := mode % 4 == 2
  let bslen := v 0 2
  let ns := v 2 2
  let ntok := v 4 2
  let cs := bitSrc (payload.drop 8)
  match readCounts ns cs 0 with
  | none => none
  | some (counts, pos) =>
    let tlen := (pos + 7) / 8
    let body := (payload.drop (8 + tlen)).take bslen
    let bs := bitSrc body
    let total := if matches' then ntok else if nib then 2 * raw else raw
    if bslen < 24 ∨ ns = 0 ∨ (if nib then 16 else if matches' then 280 else 256) < ns ∨ v 6 2 ≠ 0 ∨
        (!matches' && ntok != 0) = true ∨ counts.sum ≠ 4096 ∨ cs.val >>> (cs.len - 8 * tlen) % 2 ^ (8 * tlen - pos) ≠ 0 ∨
        payload.length < 8 + tlen + bslen ∨ leNat (payload.drop (8 + tlen + bslen)) ≠ 0 then none
    else
      match readStates 16 bs 0 with
      | none => none
      | some (xs, p) =>
        match decodeSyms (ansTable counts) bs total (if nib then 2 * raw else raw) far total 0 xs p
            (if matches' then hist.reverse else []) 0 with
        | none => none
        | some (out, q, done) =>
          if done ≠ (if nib then 2 * raw else raw) ∨ bs.len - q ≥ 8 ∨ bs.val % 2 ^ (bs.len - q) ≠ 0 then none
          else
            let bytes := (out.take done).reverse
            some (if nib then joinNibbles bytes else bytes)

/-- The payload of a block decoded under its mode, with match distances of at most `far` bytes. -/
def decodeWithin (far mode raw : Nat) (hist payload : List Byte) : Option (List Byte) :=
  if mode % 4 = 0 then some payload else decodeEntropy far mode raw hist payload

/-- The payload of a block decoded under its mode (R163 to R168). -/
def decodeBlock (mode raw : Nat) (hist payload : List Byte) : Option (List Byte) := decodeWithin 65536 mode raw hist payload

/-! ## Coding of a block (R172, R173) -/

/-- The proposed coding in a mode, when it shrinks the block and its matches stay within WINDOW (R171, R172). -/
def candidate (mode depth hash window : Nat) (hist block : List Byte) : Option (Nat × List Byte) :=
  let p := Config.furlPayload mode depth hash window hist block
  if blockSizeOk p.length ∧ p.length < block.length ∧
      decodeWithin (4096 * 2 ^ window) mode block.length hist p = decodeBlock mode block.length hist p then some (mode, p)
  else none

/-- The smaller coding, the earlier one on a tie. -/
def smaller (best : Nat × List Byte) (c : Option (Nat × List Byte)) : Nat × List Byte :=
  match c with
  | some x => if x.2.length < best.2.length then x else best
  | none => best

/-- The coding of a block: the smallest candidate, verified; a failed verification stores the block with VFB (mode bit
3) set. -/
def codeBlock (depth hash window : Nat) (hist block : List Byte) : Nat × List Byte :=
  let c := smaller (smaller (smaller (0, block) (candidate 5 depth hash window hist block))
    (candidate 1 depth hash window hist block))
    (if depth = 0 then none else candidate 2 depth hash window hist block)
  if decodeBlock c.1 block.length hist c.2 = some block then c else (8, block)

end Sys2Proof.Machine
end

