-- ==== Sys2Proof/Machine/Code.lean ====
section
/-! DEFINITION. The (144,128) granule code over GF(16) (R334, R335, R336). -/

namespace Sys2Proof.Machine

/-- α·x in GF(16) with α⁴ + α + 1 = 0. -/
def gfX (x : Nat) : Nat := if 8 ≤ x then (2 * x) % 16 ^^^ 3 else 2 * x

/-- x·y in GF(16). -/
def gfMul (x y : Nat) : Nat :=
  (if bit y 0 then x else 0) ^^^ (if bit y 1 then gfX x else 0) ^^^
  (if bit y 2 then gfX (gfX x) else 0) ^^^ (if bit y 3 then gfX (gfX (gfX x)) else 0)

/-- α to the power n. -/
def gfPow : Nat → Nat
  | 0 => 1
  | n + 1 => gfX (gfPow n)

/-- ω = α³. -/
def gfOmega : Nat := gfPow 3

/-- f(x, y) = x² + x·y + ω·y². -/
def gfForm (x y : Nat) : Nat := gfMul x x ^^^ gfMul x y ^^^ gfMul gfOmega (gfMul y y)

/-- The column of data nibble j (R334). -/
def dataColumn (j : Nat) : List Nat :=
  if j ≤ 13 then [1, 0, j + 2, gfMul gfOmega (gfMul (j + 2) (j + 2))]
  else if j ≤ 20 then [1, gfPow 2, j - 13, gfForm (gfPow 2) (j - 13)]
  else if j ≤ 28 then [1, gfPow 6, j - 21, gfForm (gfPow 6) (j - 21)]
  else [1, gfPow 12, j - 29, gfForm (gfPow 12) (j - 29)]

/-- The column of check nibble k (R334). -/
def checkColumn (k : Nat) : List Nat :=
  if k = 0 then [0, 0, 0, 1]
  else if k = 1 then [1, 0, 0, 0]
  else if k = 2 then [1, 0, 1, gfOmega]
  else [1, gfPow 2, 0, gfPow 4]

/-- The column of nibble i of the 36: the 32 data nibbles, then the check nibbles. -/
def codeColumn (i : Nat) : List Nat := if i < 32 then dataColumn i else checkColumn (i - 32)

/-- Nibble i of a stored word. -/
def nib (v i : Nat) : Nat := (v >>> (4 * i)) % 16

/-- v·h added to a syndrome. -/
def synAdd (v : Nat) (h s : List Nat) : List Nat := List.zipWith (fun a b => gfMul v a ^^^ b) h s

/-- The syndrome of the first n nibbles of a word. -/
def synOf (v : Nat) : Nat → List Nat
  | 0 => [0, 0, 0, 0]
  | n + 1 => synAdd (nib v n) (codeColumn n) (synOf v n)

/-- The syndrome of a stored word (R334). -/
def syndrome (w : Stored) : List Nat := synOf w.toNat 36

/-- The poison syndrome (R335). -/
def poisonSyndrome : List Nat := [0, 0, 1, 0]

/-- The word a writer stores: the check nibbles of R335 for a clean or a poisoned granule. -/
def encodeGranule (d : Granule) (poisoned : Bool) : Stored :=
  let D := synOf d.toNat 32
  let t2 := if poisoned then 1 else 0
  let c3 := gfMul (gfPow 13) (D.getD 1 0)
  let c2 := D.getD 2 0 ^^^ t2
  let c1 := D.getD 0 0 ^^^ c2 ^^^ c3
  let c0 := D.getD 3 0 ^^^ gfMul gfOmega c2 ^^^ gfMul (gfPow 4) c3
  BitVec.ofNat 144 (d.toNat + c0 <<< 128 + c1 <<< 132 + c2 <<< 136 + c3 <<< 140)

/-- What a reader of a stored word finds (R336). -/
inductive ReadOutcome where
  /-- The syndrome is 0. -/
  | clean
  /-- The syndrome is the poison syndrome. -/
  | poisoned
  /-- One nibble was corrected. -/
  | corrected
  /-- Any other syndrome: returned poisoned. -/
  | uncorrectable
deriving DecidableEq, Repr

/-- The single-nibble error (nibble, value) with the given syndrome, if there is one. -/
def findError (s : List Nat) : Option (Nat × Nat) :=
  ((List.range 36).flatMap (fun i => (List.range 15).map (fun e => (i, e + 1)))).find?
    (fun p => synAdd p.2 (codeColumn p.1) [0, 0, 0, 0] == s)

/-- The reader of R336: the data returned and what was found. -/
def decodeGranule (w : Stored) : Granule × ReadOutcome :=
  let s := syndrome w
  let d := BitVec.ofNat 128 w.toNat
  if s == [0, 0, 0, 0] then (d, .clean)
  else if s == poisonSyndrome then (d, .poisoned)
  else match findError s with
    | some (i, e) => (BitVec.ofNat 128 (w.toNat ^^^ (e <<< (4 * i))), .corrected)
    | none => (d, .uncorrectable)

end Sys2Proof.Machine
end

