-- ==== Sys2Proof/Machine/State.lean ====
section
/-! DEFINITION. The state of the block as plain data, and the state right after reset. -/

namespace Sys2Proof.Machine

/-- Why the machine stops (no unit of the block stops it: every error the manual describes is a next state). -/
inductive Fault where
  /-- Raised by nothing in this model; kept so that the outcome has a reason type. Safe. -/
  | none
deriving DecidableEq, Repr

/-- Why a command has no meaning. -/
inductive Refusal where
  /-- A row of the table that has no meaning yet; raised by its arm of exec alone. Safe. -/
  | notModelled (mnemonic : String)
deriving DecidableEq, Repr

/-! ## Event log (12_faults) -/

/-- A report on its way to the log (R348, R349, R350). -/
structure Report where
  source : Nat
  cls : Nat
  code : Nat
  count : Nat
  detail : BitVec 128
deriving DecidableEq, Repr

/-- A record of the event log (R348). -/
structure EventRecord where
  seq : Word
  stamp : Nat
  report : Report
deriving DecidableEq, Repr

/-- The event log and its registers (R348 to R356). -/
structure EventLog where
  /-- Records by SEQ mod 4,096 (R353). -/
  records : Table EventRecord
  wrSeq : Word
  rdSeq : Word
  lost : Nat
  coalesceEn : Bool
  window : Nat
  firstValid : BitVec 16
  first : Table EventRecord
  /-- The waiting report of each source (R351), by source. -/
  waiting : Table Report
  /-- The source taken last, for the round robin of R351. -/
  lastTaken : Nat
  /-- Management cycles from cold reset, modulo 2^48. -/
  cycle : Nat
deriving DecidableEq, Repr

/-! ## Lee memory (08_lee_memory, 02_flow_contract) -/

/-- Kinds of Region (R36). -/
inductive RegionKind where
  | plain
  | reduce
  | stash
  | ring
deriving DecidableEq, Repr

/-- One operation that a fabric message asks of Lee or of the Gates, in arrival order. -/
inductive RxOp where
  /-- A granule with its mark: plain write or atomic OP at a Region offset. -/
  | gran (region op off : Nat) (data : Granule) (poison : Bool)
  /-- The contribution-end flag of a flit for a Region (R240). -/
  | cend (region : Nat)
  /-- A fabric GSIG (R325). -/
  | gsig (gate count : Nat)
  /-- Boot words (R326). -/
  | boot (off : Nat) (data : List Byte)
deriving DecidableEq, Repr

/-- Why a Region is being zeroed (R242, R239, R413). -/
inductive ZeroWhy where
  | none
  /-- The zeroing of an accepted reduction arm. -/
  | arm
  /-- The host's region_zero. -/
  | host (src off len : Nat)
  /-- Zeroization of a Region that is being freed, by a command or at a job's end. -/
  | free (src : Option Nat)
deriving DecidableEq, Repr

/-- Who wrote an arm: the source of a host command, or a Task, with the place of its STS among its accesses. -/
inductive ArmSrc where
  | host (src : Nat)
  | eddy (e n : Nat)
deriving DecidableEq, Repr

/-- An arm that has landed on ARMWORD (R239): the word, its poison and who wrote it. -/
structure ArmReq where
  word : DWord
  poison : Bool
  src : ArmSrc
deriving DecidableEq, Repr

/-- A Region (R35 to R38). -/
structure Region where
  cur : Nat
  base : Nat
  size : Nat
  kind : RegionKind
  persistent : Bool
  tenant : Nat
  /-- The running job holds the Region. -/
  held : Bool
  /-- What the last accepted arm took: GATE, GCOUNT, GEN, EXPECT (R239). -/
  gate : Nat
  gcount : Nat
  gen : Bool
  expect : Nat
  /-- Arms that have landed and are still to be checked, in order of arrival. -/
  armReqs : List ArmReq
  zero : ZeroWhy
  /-- Lee cycles of the running ZERO that have passed: in each, every bank of the range wrote one bank word (R242). -/
  zeroDone : Nat
  /-- Operations held while an arm zeroes the Region (R239): port, arrival number, operation. -/
  waiting : List (Nat × Nat × RxOp)
  /-- Ring indices W and Rd and the END mark, in bytes (R207, R208). -/
  ringW : Nat
  ringRd : Nat
  ringEnd : Bool
  /-- Codes already recorded for this Region in this job (R237, R241). -/
  once : List Nat
deriving DecidableEq, Repr

/-- A Lee bank (R243, R244, R249). -/
structure Bank where
  /-- 0 in service, 1 retire-pending, 2 retired. -/
  state : Nat
  corr : Nat
  /-- The bank row that scrub takes next. -/
  row : Nat
  /-- Corrections in the current scrub pass. -/
  passCorr : Nat
  /-- Granules corrected or rewritten in the current pass. -/
  passGran : List Nat
deriving DecidableEq, Repr

/-- Lee memory: bytes, poison marks and stored errors by address; Regions; banks. -/
structure Lee where
  /-- Bytes by Lee address: Current times 2^31 plus offset (R70, R230). -/
  mem : List Host.Cell
  /-- Granule numbers (address / 16) that carry the poison mark. -/
  poison : List Nat
  /-- The error pattern in the 144 stored bits of a granule. -/
  err : Table Stored
  regions : Table Region
  /-- Banks by 48 times the block-wide Eddy index plus the physical bank. -/
  banks : Table Bank
deriving DecidableEq, Repr

/-! ## Eddies (03_sequencer, 04_vanes, 05_numerics) -/

/-- The run state of a Task; WAITING is RUNNING held at issue (R95). -/
inductive RunState where
  | idle
  | loading
  | running
  | halted
  | faulted
deriving DecidableEq, Repr

/-- What an issued instruction makes the sequencer wait for. -/
inductive Wait where
  | none
  /-- A MOV that is not yet acknowledged (R85). -/
  | mov
  /-- A GWAIT or BAR at a Gate; true once the Gate has let it through (R452). -/
  | gate (g : Nat) (done : Bool)
  /-- An SWAIT, RWAIT or CWAIT at the head of the queue of its class. -/
  | unit (cls : Nat)
  /-- A FENCE of a scope (R90). -/
  | fence (scope : Nat)
deriving DecidableEq, Repr

/-- An active hardware loop (R78, R79): its counter, first and last body index. -/
structure Loop where
  lc : Nat
  first : Nat
  last : Nat
deriving DecidableEq, Repr

/-- An entry of a unit queue (R74), and what its take-up needs to know. -/
inductive QEntry where
  /-- An instruction whose effects came at its issue. -/
  | plain
  /-- An MMA, by its place; its first row takes it up. -/
  | mma (n : Nat)
  /-- Another MAT instruction, by its place; its effects begin once it is taken up. -/
  | mat (n : Nat)
  /-- An SWAIT on a block-wide stream until at most n transfers remain; the result goes to rd. -/
  | swait (sid n rd : Nat)
  /-- An RWAIT on a Region for b published bytes. -/
  | rwait (region bytes rd : Nat)
  /-- A CWAIT for the job described at an address. -/
  | cwait (desc : Nat)
  /-- A FURL or UNFURL that a codec unit has still to accept. -/
  | codJob
deriving DecidableEq, Repr

/-- A Tile: the parameters of its TLOAD, its image, and its poison mark (R102, R103, R339). -/
structure Tile where
  fmt : Nat
  kv : Nat
  nv : Nat
  sgran : Nat
  sfmt : Nat
  image : List Byte
  poison : Bool
deriving DecidableEq, Repr

/-- The shadow of a logical Vane (R104). -/
inductive Shadow where
  | empty
  | loading
  | full (t : Tile)
deriving DecidableEq, Repr

/-- A logical Vane. -/
structure Vane where
  active : Option Tile
  shadow : Shadow
  /-- The column sums of columns 0 to 63; an unlisted column reads 0. -/
  csum : Table DWord
  taint : Bool
deriving DecidableEq, Repr

/-- A Slot with its metadata (R107 to R110). -/
structure Slot where
  /-- Entries by column; an unlisted column reads 0. -/
  entries : Table Word
  /-- 0 INT32, 1 INT64, 2 FP32, 3 FP32C. -/
  mode : Nat
  nv : Nat
  k : Nat
  rowsum : DWord
  intp : Bool
  long : Bool
  sat : Bool
  poison : Bool
  resfail : Bool
deriving DecidableEq, Repr

/-- A TLOAD that has not finished (R103, R104). -/
structure TloadOp where
  pc : Nat
  /-- Logical Vanes still to load, with their rank. -/
  todo : List (Nat × Nat)
  /-- Vanes whose load has begun. -/
  begun : List Nat
  wfmt : Nat
  fromFeed : Bool
  addr : Nat
  feed : Nat
  kv : Nat
  nv : Nat
  sgran : Nat
  sfmt : Nat
  csacc : Bool
  /-- Bytes already taken from the feed for the first Vane still to load. -/
  got : List Byte
  gotPoison : Bool
deriving DecidableEq, Repr

/-- An MMA whose rows have not all entered (R111). -/
structure MmaOp where
  pc : Nat
  vanes : List Nat
  afmt : Nat
  addr : Nat
  slot : Nat
  mstr : Nat
  vstr : Nat
  pitch : Nat
  voff : Nat
  asgran : Nat
  asfmt : Nat
  asaddr : Nat
  rows : Nat
  next : Nat
deriving DecidableEq, Repr

/-- A DRAIN or DRAINCLR whose Slots have not all been read (R115). -/
structure DrainOp where
  pc : Nat
  clear : Bool
  slot : Nat
  sstr : Nat
  rows : Nat
  next : Nat
  toPort : Bool
  /-- The Lee address of row 0 (DKIND 0). -/
  addr : Nat
  pitch : Nat
  /-- Port, class, region and offset of DKIND 1. -/
  port : Nat
  cls : Nat
  region : Nat
  off : Nat
  desc : Nat
  dfmt : Nat
  rnd : Nat
  asv : Bool
  asaddr : Nat
  /-- Output bytes that do not yet fill a granule, and their mark (DKIND 1). -/
  tail : List Byte
  tailPoison : Bool
  /-- Whole granules gathered for the fabric message (DKIND 1). -/
  grans : List (Granule × Bool)
deriving DecidableEq, Repr

/-- MAT instructions that have issued and have effects still to come, oldest first (R114). -/
inductive MatOp where
  | tload (o : TloadOp)
  | tswap (pc : Nat) (vanes : List Nat)
  | mma (o : MmaOp)
  | drain (o : DrainOp)
  | sclr (slot n mode : Nat)
  | csave (pc lv addr : Nat)
deriving DecidableEq, Repr

/-- One Eddy. -/
structure Eddy where
  run : RunState
  pc : Nat
  /-- s0 to s31. -/
  sreg : Vector DWord 32
  /-- a0 to a15. -/
  areg : Vector (BitVec 48) 16
  /-- lc0 to lc7. -/
  lreg : Vector Word 8
  /-- p0 to p7; p0 reads 1 whatever bit 0 holds. -/
  preg : BitVec 8
  /-- The poison bit of each register, by specifier (R339). -/
  poison : BitVec 64
  calls : List Nat
  /-- Active hardware loops, innermost first. -/
  loops : List Loop
  cycles : DWord
  cyclesHi : Word
  wait : Wait
  /-- Halted by the debug port, and stepping one instruction (R414, R420). -/
  dapHalt : Bool
  dapStep : Bool
  faultValid : Bool
  faultPc : Nat
  faultCode : Nat
  /-- Instruction memory; an unlisted index holds HALT. -/
  imem : Table Granule
  imemErr : Table Stored
  imemCorr : Nat
  /-- Unit queues by class 3 to 8 (R74). -/
  queues : Table (List QEntry)
  /-- MAT instructions with effects still to come, each with its place in the Task's order of accesses. -/
  matOps : List (Nat × MatOp)
  /-- The place of the next MAT instruction or reduction arm. -/
  matSeq : Nat
  vanes : Table Vane
  slots : Table Slot
  /-- Error patterns of accumulator words of four entries, by 16 times the Slot plus the word. -/
  accErr : Table Stored
  /-- Error patterns that the next operand words loaded into the Vane input registers carry, in order (R338). -/
  vaneErr : List Stored
  vaneMap : Word
  longDrains : Nat
  satDrains : Nat
  residue : Table Nat
  /-- Residue job counts of R346, by physical Vane. -/
  resJobs : Table Nat
  /-- Physical Vanes whose residue count rose in this job. -/
  resRose : List Nat
  /-- Physical Vanes mapped out since cold reset (R346, R374). -/
  outVanes : List Nat
  nanCvt : Nat
  satCvt : Nat
  /-- Draws taken from the sub-streams VEC, QNT and DRAIN (R149). -/
  drawVec : Nat
  drawQnt : Nat
  drawDrain : Nat
  /-- Codes already recorded for this Eddy in this job. -/
  once : List Nat
deriving DecidableEq, Repr

/-! ## Gates (02_flow_contract, 03_sequencer) -/

/-- A wait that stands at a Gate: the Eddy and its threshold. -/
structure GateWait where
  eddy : Nat
  thresh : Nat
deriving DecidableEq, Repr

/-- A Gate (R44, R88, R96). -/
structure Gate where
  value : Nat
  barN : Nat
  ovf : Bool
  /-- The running job holds the Gate (R87). -/
  held : Bool
  barUse : Bool
  waits : List GateWait
  /-- Eddies that wait in the current barrier generation, in arrival order. -/
  barWaits : List Nat
deriving DecidableEq, Repr

/-- What a message on its way to a Gate carries (R89, R452). -/
inductive GateMsgKind where
  | signal (count : Nat)
  | wait (thresh : Nat)
  | bar (n : Nat)
deriving DecidableEq, Repr

/-- A message from an Eddy to a Gate. -/
structure GateMsg where
  gate : Nat
  eddy : Nat
  pc : Nat
  /-- The accesses that the message releases: those before this place (R46). -/
  after : Nat
  kind : GateMsgKind
deriving DecidableEq, Repr

/-! ## Currents -/

/-- The registers of a Current outside its Eddies. -/
structure Current where
  scrubEn : Bool
  scrubInterval : Nat
  scrubPasses : Nat
  scrubUncorr : Nat
  retireThresh : Nat
  atomRefused : Nat
  atomLate : Nat
  corrMat : Nat
  corrSwitch : Nat
  /-- Error patterns that the next granules over the Current switch carry, in order (R338). -/
  switchErr : List Stored
  poisonCount : Nat
deriving DecidableEq, Repr

/-! ## Tile feeds (06_furl_unfurl) -/

/-- A tile feed of a Current (R185, R193). -/
structure Feed where
  bound : Bool
  eddy : Nat
  unit : Nat
  /-- The job that feeds it still runs. -/
  live : Bool
  bytes : List (Byte × Bool)
deriving DecidableEq, Repr

/-! ## Fabric ports (11_fabric_ports) -/

/-- Who supplies an outgoing fabric message. -/
inductive TxOwner where
  | drain (e : Nat)
  | stream (sid : Nat)
  | codec (u : Nat) (scale : Bool)
  | boot
deriving DecidableEq, Repr

/-- An outgoing message (R313, R320): LEN in granules, the granules supplied so far, and what has been sent. -/
structure TxMsg where
  owner : TxOwner
  op : Nat
  region : Nat
  off : Nat
  len : Nat
  data : List (Granule × Bool)
  /-- The source has ended; missing granules are padded (R321). -/
  closed : Bool
  headSent : Bool
  flits : Nat
deriving DecidableEq, Repr

/-- A flit in the block: its arrival number, class, whether it is a head flit, and its granules with their marks. -/
structure RxFlit where
  seq : Nat
  cls : Nat
  head : Bool
  grans : List (Granule × Bool)
deriving DecidableEq, Repr

/-- The message of a class that the port side is reading. -/
structure RxMsg where
  /-- The arrival number of the head flit. -/
  seq : Nat
  discard : Bool
  op : Nat
  region : Nat
  off : Nat
  left : Nat
  cend : Bool
deriving DecidableEq, Repr

/-- A fabric port (R310 to R332). -/
structure Port where
  /-- 0 DOWN, 1 UP, 2 RESET. -/
  state : Nat
  /-- FAB_PEER_UP_f as sampled, and the level the block drives on FAB_UP_f. -/
  peer : Bool
  up : Bool
  /-- Send credits per class. -/
  credits : List Nat
  dis : Bool
  msgFlits : Nat
  flitsTx : Word
  flitsRx : Word
  corr : Nat
  proto : Nat
  resets : Nat
  padded : Nat
  /-- Flits in the receive entries, oldest first; then those in the fabric baffle. -/
  held : List RxFlit
  baffle : List RxFlit
  /-- Body flits still to come per class (R315). -/
  frame : List Nat
  /-- The message being read, by class. -/
  cur : Table RxMsg
  /-- Operations read out and not yet applied: arrival number, class, operation. -/
  ops : List (Nat × Nat × RxOp)
  rxSeq : Nat
  /-- Outgoing messages by class, oldest first. -/
  tx : Table (List TxMsg)
  /-- The pins: the flit and class driven last, and for each class the fabric cycles of this management cycle in which its
  bit of FAB_RXCR_f was high (R317; log 154). -/
  txFlit : BitVec 2304
  txValid : Bool
  txCls : Nat
  rxCr : List Nat
  /-- Codes already recorded in this job. -/
  once : List Nat
deriving DecidableEq, Repr

/-! ## Streams (07_streams) -/

/-- An armed transfer: the fields of its descriptor (R197) and its arm word (R201). -/
structure Xfer where
  src : Nat
  dst : Nat
  c0 : Nat
  c1 : Nat
  c2 : Nat
  c3 : Nat
  c4 : Nat
  /-- The strides as they stand in the descriptor, 48 bits each. -/
  t1 : Nat
  t2 : Nat
  t3 : Nat
  t4 : Nat
  /-- CTL: SIDE, GMODE, ELEMB, CTX. -/
  side : Bool
  fine : Bool
  index : Bool
  elemb : Nat
  ctx : Nat
  arm : DWord
  /-- The status with which an abort or a stop ends the transfer. -/
  ending : Option Nat
deriving DecidableEq, Repr

/-- The translation of the page in use (R219): store and page, and where it leads. -/
structure PageUse where
  store : Nat
  base : Nat
  size : Nat
  link : Nat
  rbase : Nat
deriving DecidableEq, Repr

/-- Granules of a commit unit that is not yet whole, with where they go (R220). -/
structure StagedWrite where
  pos : Nat
  link : Nat
  store : Nat
  off : Nat
  addr : Nat
  data : List (Byte × Bool)
deriving DecidableEq, Repr

/-- A write sent: its WID, its stream, the walk position and remote address of its first granule, and whether its transfer
is still active. -/
structure WriteUse where
  wid : Nat
  sid : Nat
  pos : Nat
  addr : Nat
  live : Bool
deriving DecidableEq, Repr

/-- The answer to a remote read: walk position and data. -/
structure Arrived where
  pos : Nat
  data : List (Byte × Bool)
deriving DecidableEq, Repr

/-- A stream (R202 to R227). -/
structure Stream where
  /-- The running job holds the stream. -/
  held : Bool
  active : Option Xfer
  pending : Option Xfer
  stalled : Bool
  miss : Bool
  /-- Walk position, in bytes, of the next grant or remote read. -/
  granted : Nat
  /-- Bytes that have met the condition of their destination (R204). -/
  delivered : Nat
  /-- Elements published into the ring. -/
  published : Nat
  staged : List StagedWrite
  arrived : List Arrived
  page : Option PageUse
  /-- A stream fault that waits for answers: code, walk position, remote address (R221). -/
  bad : Option (Nat × Nat × Nat)
  /-- An element of the active transfer was written as poisoned zeros (R217). -/
  rangeHit : Bool
  /-- The stream has recorded its first DEADLINE_MISS of the job (R210). -/
  missNoted : Bool
  tte : Nat
  /-- Grants of the engine since this stream was last granted (R212). -/
  skipped : Nat
  last : Nat
  done : Nat
  doneHi : Nat
  cursor : List Nat
  faultCtx : Nat
  faultAddr : Nat
  misses : Nat
  faults : Nat
deriving DecidableEq, Repr

/-- A translation context (R218, R228, R412). -/
structure XltCtx where
  valid : Bool
  region : Nat
  entries : Nat
  tenant : Option Nat
  /-- The running job holds the context. -/
  held : Bool
deriving DecidableEq, Repr

/-! ## Links (10_links) -/

/-- Who handed a packet to the link, and how many of its bytes the packet carries. -/
inductive LinkOwner where
  | none
  | stream (sid bytes : Nat)
  | codec (u bytes : Nat)
deriving DecidableEq, Repr

/-- A packet that waits to be sent: its 16-byte header and its body (R274, R275). -/
structure LinkPkt where
  owner : LinkOwner
  bytes : List Byte
deriving DecidableEq, Repr

/-- A packet that has arrived whole. -/
structure RxPkt where
  header : Nat
  body : List Byte
  /-- The receive group in which the packet ended (R305). -/
  group : Nat
deriving DecidableEq, Repr

/-- A word at the read port of a catch queue, with its flags (R287). -/
structure CqOut where
  data : Granule
  poison : Bool
  head : Bool
  last : Bool
  damaged : Bool
  lull : Bool
deriving DecidableEq, Repr

/-- A flit in the replay buffer (R279). -/
structure ReplayEntry where
  vc : Nat
  seq : Nat
  first : Nat
  payload : List Byte
  sends : Nat
  /-- The flit is to be sent (again). -/
  due : Bool
  /-- An acknowledgment covers the flit. -/
  acked : Bool
deriving DecidableEq, Repr

/-- The state of a physical lane (R300, R307). -/
structure Lane where
  /-- 0 active, 1 spare, 2 retired, 3 unused. -/
  state : Nat
  logical : Nat
  retrains : Nat
  high : Nat
  corr : Word
  /-- LNK_PHY_RDY. -/
  rdy : Bool
  /-- Port cycles in which the latest retrains counted against the lane started. -/
  recent : List Nat
  /-- Corrected symbols in the current 100 ms window. -/
  window : Nat
  /-- Training: the words of the step received on the lane, and the MAP of its last TS2. -/
  words : Nat
  map : Nat
  /-- 0 not qualified for retirement; 1 qualified, LANE_RETIRE to be sent; 2 the partner has sent LANE_RETIRE (R300, R301). -/
  qualified : Nat
deriving DecidableEq, Repr

/-- A read tag (R281). -/
structure TagUse where
  gen : Nat
  /-- The request outstanding: stream (or the boot ROM), walk position, granules, remote address. -/
  req : Option (Option Nat × Nat × Nat × Nat)
deriving DecidableEq, Repr

/-- A word of the catch queue with its flags (R287). -/
structure CqWord where
  data : Granule
  poison : Bool
  err : Stored
  head : Bool
  last : Bool
  damaged : Bool
deriving DecidableEq, Repr

/-- What the VC0 receiver hands to the catch queue. -/
inductive CqItem where
  | head (w : Granule) (last : Bool)
  | body (w : Granule) (last : Bool)
  /-- The packet in progress ends at its last received word, damaged (R289). -/
  | cut
deriving DecidableEq, Repr

/-- The receiver of a VC's byte stream (R274). -/
structure RxStream where
  /-- The next SEQ expected. -/
  expect : Nat
  /-- Bytes of a header or packet not yet whole. -/
  part : List Byte
  /-- Body words of the VC0 packet still to come. -/
  left : Nat
  /-- A loss: nothing is taken before the next FIRST. -/
  lost : Bool
deriving DecidableEq, Repr

/-- A link and its controller (R269 to R307). -/
structure Link where
  /-- 0 DOWN, 1 TRAINING, 2 UP, 3 HOLD, 4 RETRAIN. -/
  state : Nat
  /-- The training step, 1 to 5, of TRAINING and RETRAIN, and the port cycle in which it began. -/
  step : Nat
  stepAt : Nat
  lanes : Vector Lane 17
  /-- The lane a running retrain counts against, and whether that retrain leaves the lane out. -/
  blame : Nat
  retiring : Option Nat
  encRx : Bool
  encTx : Bool
  pause : Bool
  auto : Bool
  minLanes : Nat
  retrainLimit : Nat
  serLimit : Nat
  serWindows : Nat
  cqOn : Nat
  cqOff : Nat
  cqCut : Nat
  cqCorr : Nat
  cqDamaged : Nat
  cqLost : Nat
  replays : Nat
  timeouts : Nat
  tagTimeout : Nat
  credit1 : Nat
  credit2 : Nat
  credit3 : Nat
  /-- The partner's CREDITS last seen per VC 1 to 3. -/
  seen1 : Nat
  seen2 : Nat
  seen3 : Nat
  txEn : Bool
  rxEn : Bool
  txSlot : Nat
  rxSlot : Nat
  authFail : Nat
  /-- Packets to send on VC1 to VC3, and what is left of the one being cut into flits. -/
  tx1 : List LinkPkt
  tx2 : List LinkPkt
  tx3 : List LinkPkt
  /-- Next SEQ per VC 1 to 3. -/
  seq1 : Nat
  seq2 : Nat
  seq3 : Nat
  /-- Bytes of the first packet of each VC already sent. -/
  cut1 : Nat
  cut2 : Nat
  cut3 : Nat
  replay : List ReplayEntry
  /-- Every unacknowledged entry goes before any new flit, after a retrain (R301). -/
  replayAll : Bool
  /-- A NAK to send per VC 1 to 3. -/
  naks : List Nat
  /-- The VC that has the turn among those ready to send. -/
  vcTurn : Nat
  /-- The rotation of AVC and CVC (R278). -/
  turn : Nat
  /-- VC3 flits freed since training. -/
  freed3 : Nat
  /-- VC3 credits the partner holds. -/
  grant3 : Nat
  /-- The VC3 flits in the control buffer, oldest first, each by its packets not yet taken (R280). -/
  buf3 : List Nat
  rx0 : RxStream
  rx1 : RxStream
  rx2 : RxStream
  rx3 : RxStream
  /-- Packets of VC2 and VC3 that have arrived. -/
  in2 : List RxPkt
  in3 : List RxPkt
  v0 : List CqItem
  catchQ : List CqWord
  /-- What the read port of the catch queue last presented. -/
  cqOut : CqOut
  /-- The packet whose words are being written has not ended; its mark when its header has gone. -/
  cqOpen : Bool
  /-- The consumer stands inside a packet. -/
  cqIn : Bool
  cqMark : Bool
  cqEnd : Bool
  /-- DROP_PACKET discards arriving words up to END. -/
  dropping : Bool
  tags : Table TagUse
  wid : Nat
  /-- Writes that the partner may still refuse (R283). -/
  writes : List WriteUse
  uncorrRun : Nat
  /-- Corrected symbols by lane in the last flits, latest first. -/
  corrHist : List (List (Nat × Nat))
  /-- Encryption: the transmit group and its flits, the receive group and its flits, key switches. -/
  txGroup : Nat
  txFlits : List (BitVec 4096)
  rxGroup : Nat
  rxFlits : List (BitVec 4096)
  /-- The receive group has lost a flit. -/
  rxBad : Bool
  txSwitch : List (Nat × Nat)
  rxSwitch : List (Nat × Nat)
  /-- The pins: the last flit sent, and LNK_PHY_RST_N. -/
  txFlit : BitVec 4096
  phyRst : Bool
  /-- Message bits that do not yet fill a codeword, and the last codeword as dealt to logical lanes (R271). -/
  txBits : List (BitVec 10)
  txRest : Nat
  txRestLen : Nat
  txDealt : Nat
  txLanes : List (List (BitVec 10))
  txWords : Nat
  /-- Bits of each logical lane, and their number, that do not yet fill a lane cycle; and LNK_TXD: the lane cycles last
  driven on each physical lane, of 256 bits (R270). -/
  txPart : List (Nat × Nat)
  txd : Table (List (BitVec 256))
  /-- Flit slots received since superframe 0 began (R272). -/
  rxCount : Nat
  /-- Training: the words TS2 sent and received in step 4, and superframes received in step 5. -/
  clean : Nat
  partnerMap : Nat
  /-- Codes already recorded in this job, and the job's first overwrite. -/
  once : List Nat
deriving DecidableEq, Repr

/-! ## Landing ranges (R290 to R296, R308) -/

/-- A landing range. -/
structure LRange where
  /-- 0 FREE, 1 ARMED, 2 COMPLETE. -/
  state : Nat
  landed : Nat
  dst : Nat
  sdst : Nat
  bitmap : Nat
  segBytes : Nat
  ssegBytes : Nat
  count : Nat
  store : Nat
  expand : Bool
  paired : Bool
  refetch : Nat
  link : Nat
  gate : Nat
  gcount : Nat
deriving DecidableEq, Repr

/-! ## Codec units (06_furl_unfurl) -/

/-- Who submitted a COD job: an Eddy (with the index of the instruction) or a command source. -/
inductive CodFrom where
  | eddy (e pc : Nat)
  | host (src : Nat)
deriving DecidableEq, Repr

/-- A COD job that no unit has accepted yet. -/
structure CodOffer where
  origin : CodFrom
  unfurl : Bool
  cur : Nat
  /-- UNIT of R186. -/
  unit : Nat
  desc : Nat
deriving DecidableEq, Repr

/-- An accepted COD job: the fields of its descriptor (R188). -/
structure CodJob where
  unfurl : Bool
  desc : Nat
  src : Nat
  dst : Nat
  ssrc : Nat
  sdst : Nat
  inBytes : Nat
  outLimit : Nat
  sinBytes : Nat
  soutLimit : Nat
  gate : Nat
  gcount : Nat
  streamId : Nat
  tag : Nat
  paired : Bool
  ratio : Nat
  frameNo : Nat
  depth : Nat
  hash : Nat
  window : Nat
  dline : Nat
deriving DecidableEq, Repr

/-- A Furl block that is coded: header fields and payload. -/
structure CodBlk where
  mode : Nat
  tag : Nat
  raw : Nat
  dcrc : Nat
  payload : List Byte
  poison : Bool
deriving DecidableEq, Repr

/-- A Furl block (with its scale block in a paired job) that the unit holds (R174). -/
structure HeldBlk where
  data : CodBlk
  scale : Option CodBlk
  opens : Bool
  /-- Input bytes consumed after this block. -/
  inDone : Nat
  sinDone : Nat
deriving DecidableEq, Repr

/-- The fields of an accepted block header (R161). -/
structure BlkHdr where
  mode : Nat
  last : Bool
  tag : Nat
  raw : Nat
  coded : Nat
  dcrc : Nat
deriving DecidableEq, Repr

/-- The segment that an ingress job is reading (R292, R293). -/
structure Seg where
  range : Nat
  /-- Body granules that the header gives. -/
  len : Nat
  store : Nat
  segno : Nat
  bcrc : Nat
  /-- Body bytes taken, for BCRC. -/
  body : List Byte
  /-- The whole body has been read. -/
  whole : Bool
  damaged : Bool
  /-- A condition of R180 ended the use of the packet. -/
  stopped : Bool
  /-- The segment is dropped without landing or damage (R294). -/
  ignored : Bool
  out : Nat
  sout : Nat
deriving DecidableEq, Repr

/-- The running job of a codec unit. -/
structure CodRun where
  job : CodJob
  inDone : Nat
  outDone : Nat
  sinDone : Nat
  soutDone : Nat
  frameIn : Nat
  frameOut : Nat
  frameSin : Nat
  frameSout : Nat
  inFrame : Bool
  /-- The frame being expanded carries scales (the first of a pair). -/
  scaleFrame : Bool
  blkInFrame : Nat
  /-- Data blocks and frames so far. -/
  dataBlocks : Nat
  frames : Nat
  blocks : Nat
  /-- The decompressed bytes of the current frame. -/
  hist : List Byte
  hdr : Option BlkHdr
  /-- The pair buffer: scale blocks expanded, with their tag and the scale input consumed after them (R182). -/
  pairs : List (Nat × Nat × List (Byte × Bool))
  held : List HeldBlk
  /-- Frame bytes that wait for the scale frame to go first on a link (R182). -/
  waiting : List (Byte × Bool)
  /-- Scale output of a range's last segment, whose length is not known yet (R320). -/
  swaiting : List (Byte × Bool)
  /-- The scale bytes of the current Furl frame. -/
  shist : List Byte
  fallbacks : Nat
  poisoned : Nat
  /-- Granules of the open data and scale messages still to be supplied (R320). -/
  msgLeft : Nat
  smsgLeft : Nat
  /-- Output bytes handed to ports and links, and those of them not yet at their destination (R190). -/
  put : Nat
  owed : Nat
  /-- What the record would hold after each whole block: the bytes handed on until then, and its bytes from 0x42 on, for
  the blocks whose output is on its way; and for the last one whose output has met its condition. -/
  marks : List (Nat × List Byte)
  sure : Option (List Byte)
  /-- A port or link of the job's output went down: the output on its way is lost (R302, R329). -/
  dropped : Bool
  /-- Input taken from stash flits or from the catch queue and not yet used. -/
  inbuf : List (Byte × Bool)
  /-- Read cursors in the data and scale sources. -/
  taken : Nat
  staken : Nat
  seg : Option Seg
  ending : Option Nat
deriving DecidableEq, Repr

/-- A codec unit (R158, R187, R192). -/
structure Codec where
  queue : List CodJob
  run : Option CodRun
  last : Nat
  blocks : Word
  bytesIn : DWord
  bytesOut : DWord
  inHi : Word
  outHi : Word
  errHi : Nat
  errLo : Nat
  /-- Codes already recorded in this job (R191). -/
  once : List Nat
deriving DecidableEq, Repr

/-! ## Seam (01_anatomy, 12_faults) -/

/-- A physical seam channel (R20, R22, R344). -/
structure SeamCh where
  /-- 0 idle spare, 1 active, 2 retired, 3 untrained. -/
  state : Nat
  logical : Nat
  corr : Nat
  /-- Counts of the current window, west to east and east to west, and uncorrectable ones. -/
  winWest : Nat
  winEast : Nat
  winUnc : Nat
  /-- The channel has qualified for retirement in each direction's switch-over still to come. -/
  qualified : Bool
  /-- 0x483 recorded for the current window. -/
  noted : Bool
deriving DecidableEq, Repr

/-- The seam and the half-crossbar counts. -/
structure Seam where
  chans : Table SeamCh
  auto : Bool
  uncLimit : Nat
  corrLimit : Nat
  uncorr : Nat
  /-- Start stage S5 has completed. -/
  trained : Bool
  /-- The words that have arrived, by channel, and belong to no released beat: west to east, then east to west (R344). -/
  inWest : List (Nat × BitVec 144)
  inEast : List (Nat × BitVec 144)
  /-- The beat released last in each direction: west to east, then east to west. -/
  outWest : List (Granule × Bool)
  outEast : List (Granule × Bool)
  xbarEast : Nat
  xbarWest : Nat
  /-- Error patterns that the next granules over the east and the west half-crossbar carry, in order (R338). -/
  eastErr : List Stored
  westErr : List Stored
deriving DecidableEq, Repr

/-! ## Windsock, the Dispatcher and the host (16_windsock) -/

/-- A command ring (R426 to R428, R440). -/
structure Ring where
  en : Bool
  irq : Nat
  log2 : Nat
  cmdRegion : Nat
  cplRegion : Nat
  cmdHead : Nat
  cmdTail : Nat
  cplHead : Nat
  cplTail : Nat
  stopped : Bool
  err : Nat
deriving DecidableEq, Repr

/-- A taken command: its entry (R431), and whether it has started and waits for what it started. -/
structure Cmd where
  entry : BitVec 512
  started : Bool
  /-- Its place in the order in which Windsock took commands (R430). -/
  order : Nat
  /-- Its ring has been disabled since; no completion is written (R426). -/
  silent : Bool
deriving DecidableEq, Repr

/-- A completion on its way to a ring, to the mailbox (64) or to MCTP (65). -/
structure Cpl where
  dest : Nat
  entry : BitVec 256
deriving DecidableEq, Repr

/-- Windsock's registers and the host interfaces. -/
structure HostIf where
  rings : Table Ring
  running : Table Cmd
  /-- Commands taken since reset. -/
  taken : Nat
  /-- The source taken last (R430). -/
  lastSrc : Nat
  cpls : List Cpl
  irqMask : Nat
  dropped : Nat
  notifyEn : Bool
  notifyRing : Nat
  mbox : Vector Word 16
  mboxRes : Vector Word 8
  /-- A submitted mailbox entry that no one has taken. -/
  mboxGo : Option (BitVec 512)
  mboxBusy : Bool
  jobEnd : Bool
  leeRegion : Nat
  leeOff : Nat
  /-- The answer to the last management-port access: MGT_ACK, MGT_ERR, MGT_RDATA. -/
  ack : Bool
  err : Bool
  rdata : Word
  /-- I3C and MCTP: dynamic address, endpoint ID, commands not yet taken, responses not yet read, in-band interrupt. -/
  dynAddr : Option Nat
  eid : Nat
  mctpCmds : List (BitVec 512)
  mctpOut : List (List Byte)
  ibi : Bool
  updateSeq : Word
deriving DecidableEq, Repr

/-! ## The job (16_windsock) -/

/-- An entry of the end report (R437): type, ID, status, value. -/
structure ReportEntry where
  kind : Nat
  id : Nat
  status : Nat
  value : Nat
deriving DecidableEq, Repr

/-- A W1C bit (R8): FIRST_VALID of a source kind, JOBEND, FAULT.VALID of an Eddy, OVF of a Gate. -/
inductive W1cBit where
  | first (kind : Nat)
  | jobEnd
  | fault (e : Nat)
  | ovf (g : Nat)
deriving DecidableEq, Repr

/-- The running job, and what the Dispatcher keeps between jobs. -/
structure Job where
  running : Bool
  number : Word
  /-- The first uncontained error, or the abort, that stops the job (R42, R342). -/
  stop : Option Nat
  /-- The stop of R42 has been applied. -/
  stopped : Bool
  firstEddy : Option Nat
  firstPc : Nat
  eddies : List Nat
  tenant : Nat
  lastTenant : Option Nat
  seed : DWord
  src : Nat
  /-- The report endpoint's address, and the report bytes. -/
  reportAddr : Nat
  reportBytes : Nat
  /-- The watchdog time in ms. -/
  watchdog : Nat
  /-- The checks in a row that found an Eddy WAITING, and its cycle counter at the last of them (R381). -/
  waited : Table (Nat × Nat)
  entries : List ReportEntry
  /-- The first THROTTLE of the job has been recorded (R395). -/
  throttleOnce : Bool
  /-- Ranges of which 0x40D has been recorded in the job (R294). -/
  unknownOnce : List Nat
deriving DecidableEq, Repr

/-! ## Start (13_clocks_reset_start) -/

/-- The straps (R364, R365). -/
structure Straps where
  boot : Nat
  links : Nat
  curmask : Nat
  fabclk : Nat
  spares : Bool
  mgtAddr : Nat
  calmAfter : Nat
deriving DecidableEq, Repr

/-- Where the start sequence stands. -/
inductive Phase where
  /-- A reset pin is low. -/
  | reset
  | stage (n : Nat)
  | run
  | calm
deriving DecidableEq, Repr

/-- Reset, start and clock registers. -/
structure Start where
  phase : Phase
  /-- The pins RST_COLD_N and RST_WARM_N are low. -/
  coldLow : Bool
  warmLow : Bool
  straps : Straps
  /-- The strap word in force, in the layout of START.STRAPS. -/
  ovr : Word
  lock : Bool
  minLinks : Nat
  mgtMhz : Nat
  portMhz : Nat
  /-- The port frequency in force since the last reset. -/
  portRun : Nat
  /-- Port cycles counted, and the part of the next one, in 1 / mgtMhz of a cycle (R360; log 152). -/
  portCycle : Nat
  portPart : Nat
  pll : BitVec 11
  watchdog : Nat
  attempts : Nat
  cause : Nat
  causeStage : Nat
  causeDetail : Word
  calmStamp : Nat
  tries : List Word
  /-- Management cycles spent in the stage. -/
  inStage : Nat
  /-- The stage or state that a reset interrupted, until Windsock records it (R369). -/
  interrupted : Option Nat
  /-- The attempt began at a warm reset from Calm mode (R378). -/
  calmRetry : Bool
  /-- Firmware: verified, or the ROM monitor; when it was entered. -/
  fw : Bool
  monitor : Bool
  fwEntry : Nat
  fwRoot : Nat
  fwOwner : Bool
  fwSvn : Nat
  /-- The image received so far, and the length that ended the transfer. -/
  image : List Byte
  imageLen : Option Nat
  /-- The boot request being answered: byte offset and granules (R326, R372). -/
  bootReq : Option (Nat × Nat)
  /-- Eddies that S3 or S4 found unusable, and links that S3 left absent (R373). -/
  badEddies : List Nat
  badLinks : List Nat
  ready : Bool
  /-- A scan or WS_INTEST holds the block until RST_COLD_N (R419). -/
  scanned : Bool
  wrapper : Nat
deriving DecidableEq, Repr

/-! ## Power (14_power) -/

/-- The clock control of a Current (R386 to R395). -/
structure Gale where
  cur : Nat
  /-- The step that a glide leads to. -/
  target : Nat
  max : Nat
  limit : Nat
  limitCeil : Nat
  thermCeil : Nat
deriving DecidableEq, Repr

/-- Power and thermal state. -/
structure Power where
  /-- Currents gated with retention and gated off (R397), by Current: 1 retain, 2 off. -/
  gated : Table Nat
  hold : Bool
  /-- 0 no division, 1 halved, 2 to 4 the restore stages 5/8, 3/4 and 7/8 (R390). -/
  droop : Nat
  droopPin : Bool
  short : Bool
  budgetPin : Nat
  budgetSw : Nat
  budgetCeil : Nat
  droops : Nat
  holds : Nat
  gale : Table Gale
  est : Table Nat
  /-- PWR_EST_DOM: the domain that PWR_EST_DATA shows, once there is one (R392). -/
  estDom : Option Nat
  /-- PWR_EST_VALID. -/
  estValid : Bool
  /-- Sum of the estimates of each domain in the interval, and their number. -/
  estSum : Table Nat
  estCount : Table Nat
  /-- Sensors: valid mark and reading. -/
  temps : Table (Bool × Nat)
  /-- Eddies whose Vanes are still to be turned on, per Current, and those that are on (R393). -/
  vaneQ : Table (List Nat)
  vaneOn : List Nat
  /-- GALE_MAX_MHZ of the capability record. -/
  galeMax : Nat
deriving DecidableEq, Repr

/-! ## Security and debug (15_security_debug) -/

/-- Key slots, debug requests, policy. -/
structure Sec where
  level : Nat
  /-- The lifecycle state in force: what the fuses gave at the last cold reset (R402). -/
  state : Nat
  zeroize : Nat
  slots : Table (BitVec 256 × Word)
  w1 : Option (BitVec 256)
  keyRegs : Table Word
  nonce : BitVec 384
  nonceFresh : Bool
  pub : BitVec 768
  resp : BitVec 768
  /-- The request being verified: level, key, and the code with which it will end; the grant of Full that is under way. -/
  req : Option (Nat × Nat × Nat)
  grant : Bool
  fails : Nat
  last : Nat
  /-- A grant by the owner key, or by the Eutric debug key, stands (R403). -/
  ownerGrant : Bool
  eutricGrant : Bool
  dapData : BitVec 128
deriving DecidableEq, Repr

/-! ## Fuses (15_security_debug) -/

/-- The one-time fuses, which no reset changes. -/
structure Fuses where
  /-- Four lifecycle groups of eight fuses, group 0 in bits [7:0] (R402). -/
  lifecycle : BitVec 32
  ownerHash : BitVec 384
  owner : Bool
  /-- The rollback field, one bit per security version (R407). -/
  rollback : BitVec 64
  revoked : BitVec 4
  devid : BitVec 64
deriving DecidableEq, Repr

/-! ## The block -/

/-- All volatile state of the block. -/
structure Block where
  evt : EventLog
  lee : Lee
  eddies : Table Eddy
  gates : Table Gate
  gateMsgs : List GateMsg
  feeds : Table Feed
  ports : Table Port
  currents : Table Current
  streams : Table Stream
  ctxs : Table XltCtx
  links : Table Link
  ranges : Table LRange
  dups : Nat
  unknown : Nat
  codecs : Table Codec
  codOffers : List CodOffer
  arbiters : Table (Table Nat)
  seam : Seam
  host : HostIf
  job : Job
  start : Start
  power : Power
  sec : Sec
  /-- FLT.VANE_POLICY. -/
  vaneAuto : Bool
  vaneJobs : Nat
  /-- The W1C bits that the block has set in the current management cycle (R8). -/
  setNow : List W1cBit
  /-- How many open values have been used (the model's own; log 20). -/
  fresh : Nat
deriving DecidableEq, Repr

/-! ## The machine -/

/-- The state of the machine: the commands that wait, first in first out, the fuses, and all volatile state. -/
structure State where
  pending : List Instr
  fuses : Fuses
  blk : Block
deriving DecidableEq, Repr

/-! ## Reset (R368, log 7) -/

/-- The event log after cold reset (R356). -/
def EventLog.reset : EventLog where
  records := []
  wrSeq := 0
  rdSeq := 0
  lost := 0
  coalesceEn := true
  window := 0x61A80
  firstValid := 0
  first := []
  waiting := []
  lastTaken := 0
  cycle := 0

/-- The seam after cold reset (R22, R357, R358). -/
def Seam.reset : Seam where
  chans := []
  auto := true
  uncLimit := 1
  corrLimit := 0x5A0
  uncorr := 0
  trained := false
  inWest := []
  inEast := []
  outWest := []
  outEast := []
  xbarEast := 0
  xbarWest := 0
  eastErr := []
  westErr := []

/-- Windsock's registers after reset (R440). -/
def HostIf.reset : HostIf where
  rings := []
  running := []
  taken := 0
  lastSrc := 65
  cpls := []
  irqMask := 0
  dropped := 0
  notifyEn := false
  notifyRing := 0
  mbox := Vector.replicate 16 0
  mboxRes := Vector.replicate 8 0
  mboxGo := none
  mboxBusy := false
  jobEnd := false
  leeRegion := 0
  leeOff := 0
  ack := false
  err := false
  rdata := 0
  dynAddr := none
  eid := 0
  mctpCmds := []
  mctpOut := []
  ibi := false
  updateSeq := 0

/-- No job. -/
def Job.reset : Job where
  running := false
  number := 0
  stop := none
  stopped := false
  firstEddy := none
  firstPc := 0
  eddies := []
  tenant := 0
  lastTenant := none
  seed := 0
  src := 0
  reportAddr := 0
  reportBytes := 0
  watchdog := 0
  waited := []
  entries := []
  throttleOnce := false
  unknownOnce := []

/-- Straps that no reset has sampled yet, as R364 reads pins that are low (log 3). -/
def Straps.reset : Straps := ⟨0, 0, 1, 0, false, 0, 3⟩

/-- Start and clock registers with RST_COLD_N low (R382). -/
def Start.reset : Start where
  phase := .reset
  coldLow := true
  warmLow := false
  straps := Straps.reset
  ovr := 0
  lock := false
  minLinks := 1
  mgtMhz := 400
  portMhz := 1800
  portRun := 1800
  portCycle := 0
  portPart := 0
  pll := 0
  watchdog := 10
  attempts := 0
  cause := 0
  causeStage := 0
  causeDetail := 0
  calmStamp := 0
  tries := []
  inStage := 0
  interrupted := none
  calmRetry := false
  fw := false
  monitor := false
  fwEntry := 0
  fwRoot := 0
  fwOwner := false
  fwSvn := 0
  image := []
  imageLen := none
  bootReq := none
  badEddies := []
  badLinks := []
  ready := false
  scanned := false
  wrapper := 0

/-- Power registers after cold reset (R386, R399). -/
def Power.reset : Power where
  gated := []
  hold := false
  droop := 0
  droopPin := false
  short := false
  budgetPin := 0
  budgetSw := 0x618
  budgetCeil := 3600
  droops := 0
  holds := 0
  gale := []
  est := []
  estDom := none
  estValid := false
  estSum := []
  estCount := []
  temps := []
  vaneQ := []
  vaneOn := []
  galeMax := 3600

/-- Security registers after cold reset (R422). -/
def Sec.reset : Sec where
  level := 0
  state := 0
  zeroize := 1
  slots := []
  w1 := none
  keyRegs := []
  nonce := 0
  nonceFresh := false
  pub := 0
  resp := 0
  req := none
  grant := false
  fails := 0
  last := 0
  ownerGrant := false
  eutricGrant := false
  dapData := 0

/-- All volatile state with every record at its reset value. -/
def Block.reset : Block where
  evt := EventLog.reset
  lee := ⟨[], [], [], [], []⟩
  eddies := []
  gates := []
  gateMsgs := []
  feeds := []
  ports := []
  currents := []
  streams := []
  ctxs := []
  links := []
  ranges := []
  dups := 0
  unknown := 0
  codecs := []
  codOffers := []
  arbiters := []
  seam := Seam.reset
  host := HostIf.reset
  job := Job.reset
  start := Start.reset
  power := Power.reset
  sec := Sec.reset
  vaneAuto := true
  vaneJobs := 2
  setNow := []
  fresh := 0

/-- Fuses of which none is blown (log 4). -/
def Fuses.reset : Fuses := ⟨0, 0, false, 0, 0, 0⟩

/-- The machine in cold reset: every register at its reset value, RST_COLD_N still low, and no command waiting. The row
RST_COLD_N releases it (R367, R368; log 7). -/
def State.reset : State := ⟨[], Fuses.reset, Block.reset⟩

end Sys2Proof.Machine
end

