-- ==== Sys2Proof/Machine/Tables.lean ====
section
/-! DEFINITION. Reading and writing sparse tables. Every read names what a key without an entry reads as; a write keeps
the canonical form. -/

namespace Sys2Proof.Machine

variable {α : Type}

/-- The entry of a key, if it is listed. -/
def Table.find (t : Table α) (k : Nat) : Option α :=
  match t with
  | [] => none
  | p :: r => if p.1 = k then some p.2 else Table.find r k

/-- The value a key reads as: d when it is not listed. -/
def Table.get (d : α) (t : Table α) (k : Nat) : α := (Table.find t k).getD d

/-- The table without a key. -/
def Table.erase (t : Table α) (k : Nat) : Table α :=
  match t with
  | [] => []
  | p :: r => if p.1 = k then Table.erase r k else p :: Table.erase r k

/-- The table with a pair put before the first larger key. -/
def Table.insert (t : Table α) (k : Nat) (v : α) : Table α :=
  match t with
  | [] => [(k, v)]
  | p :: r => if k < p.1 then (k, v) :: p :: r else p :: Table.insert r k v

/-- Writing a key; writing the value an unlisted key reads as removes the entry. -/
def Table.put [DecidableEq α] (d : α) (t : Table α) (k : Nat) (v : α) : Table α :=
  if v = d then Table.erase t k else Table.insert (Table.erase t k) k v

/-- Writing a key that is then listed whatever its value. -/
def Table.add (t : Table α) (k : Nat) (v : α) : Table α := Table.insert (Table.erase t k) k v

/-- Changing the value of a key. -/
def Table.upd [DecidableEq α] (d : α) (t : Table α) (k : Nat) (f : α → α) : Table α :=
  Table.put d t k (f (Table.get d t k))

/-- Changing every listed value by its key. -/
def Table.mapKeys [DecidableEq α] (d : α) (t : Table α) (f : Nat → α → α) : Table α :=
  match t with
  | [] => []
  | p :: r => Table.put d (Table.mapKeys d r f) p.1 (f p.1 p.2)

/-- Changing every listed value. -/
def Table.mapAll [DecidableEq α] (d : α) (t : Table α) (f : α → α) : Table α := Table.mapKeys d t (fun _ => f)

/-- The canonical form: strictly rising keys, no entry equal to what an unlisted key reads as. -/
def Table.wf [DecidableEq α] (d : α) (t : Table α) : Bool :=
  (match t with
   | [] => true
   | p :: r => r.all (fun q => decide (p.1 < q.1)) && Table.wf d r) && t.all (fun p => decide (p.2 ≠ d))

/-- A sorted set of numbers. -/
def setInsert (l : List Nat) (k : Nat) : List Nat :=
  match l with
  | [] => [k]
  | a :: r => if k < a then k :: a :: r else if k = a then a :: r else a :: setInsert r k

/-- A sorted set without a number. -/
def setErase (l : List Nat) (k : Nat) : List Nat := l.filter (fun a => a != k)

end Sys2Proof.Machine
end

