-- ==== Sys2Proof/Machine/Ops.lean ====
section
/-! DEFINITION. The named operations over the block: records by index, event reports, uncontained errors, and Lee
memory with its code, its poison marks and its Regions. -/

namespace Sys2Proof.Machine

/-- A command whose effect lies in the volatile state. -/
def onBlock (f : Block → Block) (s : State) : Host.Outcome State Fault Refusal := .next { s with blk := f s.blk }

/-- R396: a step of units on a Gale or Lee clock, which stops in Hold with their state kept. -/
def clockedStep (f : Block → Block) (b : Block) : Block := if b.power.hold then b else f b

/-- A command whose effect lies in the volatile state and depends on the fuses. -/
def onBlockF (f : Fuses → Block → Block) (s : State) : Host.Outcome State Fault Refusal :=
  .next { s with blk := f s.fuses s.blk }

/-! ## Records that no entry lists -/

/-- An Eddy that nothing has changed (R71, R95, R127; log 7). -/
def Eddy.fresh : Eddy where
  run := .idle
  pc := 0
  sreg := Vector.replicate 32 0
  areg := Vector.replicate 16 0
  lreg := Vector.replicate 8 0
  preg := 0
  poison := 0
  calls := []
  loops := []
  cycles := 0
  cyclesHi := 0
  wait := .none
  dapHalt := false
  dapStep := false
  faultValid := false
  faultPc := 0
  faultCode := 0
  imem := []
  imemErr := []
  imemCorr := 0
  queues := []
  matOps := []
  matSeq := 0
  vanes := []
  slots := []
  accErr := []
  vaneErr := []
  vaneMap := 0x76543210
  longDrains := 0
  satDrains := 0
  residue := []
  resJobs := []
  resRose := []
  outVanes := []
  nanCvt := 0
  satCvt := 0
  drawVec := 0
  drawQnt := 0
  drawDrain := 0
  once := []

/-- A Slot that is FP32, zero and cleared (R108). -/
def Slot.fresh : Slot := ⟨[], 2, 0, 0, 0, false, false, false, false, false⟩

/-- A logical Vane with no Tile (R127). -/
def Vane.fresh : Vane := ⟨none, .empty, [], false⟩

/-- A Gate that no job holds (R96). -/
def Gate.fresh : Gate := ⟨0, 0, false, false, false, [], []⟩

/-- A bank in service (R249). -/
def Bank.fresh : Bank := ⟨0, 0, 0, 0, []⟩

/-- The registers of a Current after reset (R249, R357). -/
def Current.fresh : Current := ⟨true, 0x40000, 0, 0, 0x40, 0, 0, 0, 0, [], 0⟩

/-- A tile feed that no job has bound (R193). -/
def Feed.fresh : Feed := ⟨false, 0, 0, false, []⟩

/-- A fabric port after reset (R332). -/
def Port.fresh : Port where
  state := 0
  peer := false
  up := false
  credits := [0, 0, 0, 0]
  dis := false
  msgFlits := 0x1000
  flitsTx := 0
  flitsRx := 0
  corr := 0
  proto := 0
  resets := 0
  padded := 0
  held := []
  baffle := []
  frame := [0, 0, 0, 0]
  cur := []
  ops := []
  rxSeq := 0
  tx := []
  txFlit := 0
  txValid := false
  txCls := 0
  rxCr := [0, 0, 0, 0]
  once := []

/-- A stream with no transfer (R227). -/
def Stream.fresh : Stream where
  held := false
  active := none
  pending := none
  stalled := false
  miss := false
  missNoted := false
  granted := 0
  delivered := 0
  published := 0
  staged := []
  arrived := []
  page := none
  bad := none
  rangeHit := false
  tte := 0x7FFFFFFF
  skipped := 0
  last := 0
  done := 0
  doneHi := 0
  cursor := [0, 0, 0, 0, 0]
  faultCtx := 0
  faultAddr := 0
  misses := 0
  faults := 0

/-- A translation context that no tenant owns (R228, R412). -/
def XltCtx.fresh : XltCtx := ⟨false, 0, 0, none, false⟩

/-- A lane before training (R307). -/
def Lane.fresh : Lane := ⟨3, 0, 0, 0, 0, false, [], 0, 0, 0, 0⟩

/-- A VC before training. -/
def RxStream.fresh : RxStream := ⟨0, [], 0, false⟩

/-- A link that is DOWN, with its registers at reset (R307). -/
def Link.fresh : Link where
  state := 0
  step := 0
  stepAt := 0
  lanes := Vector.replicate 17 Lane.fresh
  blame := 0
  retiring := none
  encRx := false
  encTx := false
  pause := false
  auto := true
  minLanes := 8
  retrainLimit := 16
  serLimit := 0x5780
  serWindows := 0x64
  cqOn := 0xE000
  cqOff := 0xF000
  cqCut := 0x100
  cqCorr := 0
  cqDamaged := 0
  cqLost := 0
  replays := 0
  timeouts := 0
  tagTimeout := 0x3E8
  credit1 := 0
  credit2 := 0
  credit3 := 0
  seen1 := 0
  seen2 := 0
  seen3 := 0
  txEn := false
  rxEn := false
  txSlot := 0
  rxSlot := 0
  authFail := 0
  tx1 := []
  tx2 := []
  tx3 := []
  seq1 := 0
  seq2 := 0
  seq3 := 0
  cut1 := 0
  cut2 := 0
  cut3 := 0
  replay := []
  replayAll := false
  naks := []
  vcTurn := 0
  turn := 0
  freed3 := 0
  grant3 := 0
  buf3 := []
  rx0 := RxStream.fresh
  rx1 := RxStream.fresh
  rx2 := RxStream.fresh
  rx3 := RxStream.fresh
  in2 := []
  in3 := []
  v0 := []
  catchQ := []
  cqOut := ⟨0, false, false, false, false, false⟩
  cqOpen := false
  cqIn := false
  cqMark := false
  cqEnd := false
  dropping := false
  tags := []
  wid := 0
  writes := []
  uncorrRun := 0
  corrHist := []
  txGroup := 0
  txFlits := []
  rxGroup := 0
  rxFlits := []
  rxBad := false
  txSwitch := []
  rxSwitch := []
  txFlit := 0
  phyRst := false
  txBits := []
  txRest := 0
  txRestLen := 0
  txDealt := 0
  txLanes := []
  txWords := 0
  txPart := []
  txd := []
  rxCount := 0
  clean := 0
  partnerMap := 0
  once := []

/-- A landing range that is FREE (R308). -/
def LRange.fresh : LRange := ⟨0, 0, 0, 0, 0, 0, 0, 0, 0, false, false, 0, 0, 0, 0⟩

/-- A ring that is not enabled (R440). -/
def Ring.fresh : Ring := ⟨false, 0, 4, 0, 0, 0, 0, 0, 0, false, 0⟩

/-- The clock control of a Current at start: step 1,200 MHz, MAX 3,600 MHz and no lower ceiling (R386, R399; log 18). -/
def Gale.fresh : Gale := ⟨1200, 1200, 3600, 0, 3600, 3600⟩

/-- A codec unit with no job (R192). -/
def Codec.fresh : Codec := ⟨[], none, 0, 0, 0, 0, 0, 0, 0, 0, []⟩

/-! ## Access by index -/

def getStream (b : Block) (s : Nat) : Stream := Table.get Stream.fresh b.streams s

def putStream (b : Block) (s : Nat) (x : Stream) : Block :=
  { b with streams := Table.put Stream.fresh b.streams s x }

def updStream (b : Block) (s : Nat) (g : Stream → Stream) : Block := putStream b s (g (getStream b s))

def getCtx (b : Block) (c : Nat) : XltCtx := Table.get XltCtx.fresh b.ctxs c

def putCtx (b : Block) (c : Nat) (x : XltCtx) : Block := { b with ctxs := Table.put XltCtx.fresh b.ctxs c x }

def getLink (b : Block) (l : Nat) : Link := Table.get Link.fresh b.links l

def putLink (b : Block) (l : Nat) (x : Link) : Block := { b with links := Table.put Link.fresh b.links l x }

def updLink (b : Block) (l : Nat) (g : Link → Link) : Block := putLink b l (g (getLink b l))

def getRange (b : Block) (r : Nat) : LRange := Table.get LRange.fresh b.ranges r

def putRange (b : Block) (r : Nat) (x : LRange) : Block :=
  { b with ranges := Table.put LRange.fresh b.ranges r x }

def getCodec (b : Block) (u : Nat) : Codec := Table.get Codec.fresh b.codecs u

def putCodec (b : Block) (u : Nat) (x : Codec) : Block := { b with codecs := Table.put Codec.fresh b.codecs u x }

def updCodec (b : Block) (u : Nat) (g : Codec → Codec) : Block := putCodec b u (g (getCodec b u))

def getFeed (b : Block) (i : Nat) : Feed := Table.get Feed.fresh b.feeds i

def putFeed (b : Block) (i : Nat) (x : Feed) : Block := { b with feeds := Table.put Feed.fresh b.feeds i x }

def getPort (b : Block) (f : Nat) : Port := Table.get Port.fresh b.ports f

def putPort (b : Block) (f : Nat) (x : Port) : Block := { b with ports := Table.put Port.fresh b.ports f x }

def updPort (b : Block) (f : Nat) (g : Port → Port) : Block := putPort b f (g (getPort b f))

/-- The outgoing messages of a class. -/
def txQueue (p : Port) (c : Nat) : List TxMsg := Table.get [] p.tx c

def setTxQueue (p : Port) (c : Nat) (q : List TxMsg) : Port := { p with tx := Table.put [] p.tx c q }

/-- The most granules of one outgoing message (R320, R332). -/
def msgGrans (p : Port) : Nat := 16 * max 16 (min 4096 p.msgFlits)

/-- A closed run of granules cut into messages of at most MSG_FLITS body flits, queued on a class (R320). -/
def sendRun : Nat → Port → Nat → TxOwner → Nat → Nat → Nat → List (Granule × Bool) → Port
  | 0, p, _, _, _, _, _, _ => p
  | _, p, _, _, _, _, _, [] => p
  | k + 1, p, c, owner, op, region, off, l =>
    let n := min l.length (msgGrans p)
    sendRun k
      (setTxQueue p c (txQueue p c ++ [⟨owner, op, region, off, n, l.take n, true, false, 0⟩]))
      c owner op region (off + 16 * n) (l.drop n)

def getRing (b : Block) (r : Nat) : Ring := Table.get Ring.fresh b.host.rings r

def putRing (b : Block) (r : Nat) (x : Ring) : Block :=
  { b with host := { b.host with rings := Table.put Ring.fresh b.host.rings r x } }

def getGale (b : Block) (n : Nat) : Gale := Table.get Gale.fresh b.power.gale n

def putGale (b : Block) (n : Nat) (x : Gale) : Block :=
  { b with power := { b.power with gale := Table.put Gale.fresh b.power.gale n x } }

def getEddy (b : Block) (e : Nat) : Eddy := Table.get Eddy.fresh b.eddies e

def putEddy (b : Block) (e : Nat) (x : Eddy) : Block :=
  { b with eddies := Table.put Eddy.fresh b.eddies e x }

def updEddy (b : Block) (e : Nat) (f : Eddy → Eddy) : Block := putEddy b e (f (getEddy b e))

def getGate (b : Block) (g : Nat) : Gate := Table.get Gate.fresh b.gates g

def putGate (b : Block) (g : Nat) (x : Gate) : Block :=
  { b with gates := Table.put Gate.fresh b.gates g x }

def getCur (b : Block) (n : Nat) : Current := Table.get Current.fresh b.currents n

def updCur (b : Block) (n : Nat) (f : Current → Current) : Block :=
  { b with currents := Table.upd Current.fresh b.currents n f }

def getSlot (x : Eddy) (i : Nat) : Slot := Table.get Slot.fresh x.slots i

def putSlot (x : Eddy) (i : Nat) (v : Slot) : Eddy :=
  { x with slots := Table.put Slot.fresh x.slots i v }

def getVane (x : Eddy) (v : Nat) : Vane := Table.get Vane.fresh x.vanes v

def putVane (x : Eddy) (v : Nat) (y : Vane) : Eddy :=
  { x with vanes := Table.put Vane.fresh x.vanes v y }

def getBank (b : Block) (e i : Nat) : Bank := Table.get Bank.fresh b.lee.banks (48 * e + i)

def putBank (b : Block) (e i : Nat) (x : Bank) : Block :=
  { b with lee := { b.lee with banks := Table.put Bank.fresh b.lee.banks (48 * e + i) x } }

def getRegion (b : Block) (r : Nat) : Option Region := Table.find b.lee.regions r

def putRegion (b : Block) (r : Nat) (x : Region) : Block :=
  { b with lee := { b.lee with regions := Table.add b.lee.regions r x } }

/-- A free value: the uninterpreted constant at the model's count, and the count advanced (log 20). -/
def takeFree (b : Block) : DWord × Block := (Config.freeValue b.fresh, { b with fresh := b.fresh + 1 })

/-- The port is UP, so that FABRIC_MASK shows it available (R25, R329). -/
def portUp (b : Block) (f : Nat) : Bool := decide (f < 64) && (getPort b f).state == 1

/-! ## Currents in force -/

/-- The block is in Calm mode. -/
def inCalm (b : Block) : Bool := b.start.phase == .calm

/-- The Current is not disabled by STRAP_CURMASK (R13); in Calm mode only C0 runs (R377). -/
def curEnabled (b : Block) (n : Nat) : Bool :=
  decide (n < 8) && bit b.start.straps.curmask n && (n == 0 || !inCalm b)

/-- The Current is enabled and not Gated (R397). -/
def curUsable (b : Block) (n : Nat) : Bool := curEnabled b n && Table.get 0 b.power.gated n == 0

/-- The number of populated links; 25 to 31 count as 24 (R24). -/
def linkCount (b : Block) : Nat := min 24 b.start.straps.links

/-- The link is populated: links are taken in the order L0, L12, L1, L13, … (R24); in Calm mode no link is clocked
(R377). -/
def linkPresent (b : Block) (l : Nat) : Bool :=
  !inCalm b && decide (l < 24) && !b.start.badLinks.contains l && decide ((if l < 12 then 2 * l else 2 * (l - 12) + 1) < linkCount b)

/-- The link is up: its LINK_MASK bit is set, from UP until DOWN (R57, R301, R302). -/
def linkUp (b : Block) (l : Nat) : Bool := linkPresent b l && decide (2 ≤ (getLink b l).state)

/-! ## Event reports (R349 to R354) -/

/-- Codes that stop a job (R350, R55). -/
def stoppingCodes : List Nat :=
  [0x118, 0x20D, 0x301, 0x302, 0x303, 0x304, 0x305, 0x306, 0x307, 0x308, 0x309,
   0x380, 0x381, 0x382, 0x383, 0x384, 0x385, 0x386, 0x387, 0x388, 0x389, 0x38A, 0x38B,
   0x605, 0x606, 0x60E, 0x715, 0x801, 0x802, 0x803, 0x804, 0x805, 0x806, 0x807, 0x808, 0x809, 0x80A, 0x80B, 0x80C, 0x810]

/-- Codes that report data delivered or stored poisoned (R350). -/
def deferredCodes : List Nat := [0x114, 0x207, 0x208, 0x312, 0x481, 0x484, 0x506, 0x60A, 0x60F]

/-- The class of a code (R350). -/
def classOf (code : Nat) (detail : BitVec 128) : Nat :=
  if stoppingCodes.contains code then 2
  else if deferredCodes.contains code then 1
  else if [0x401, 0x402, 0x406, 0x407, 0x408, 0x409, 0x40A].contains code then 3
  else if code = 0x403 then (if detail.getLsbD 0 then 4 else 8)
  else if [0x404, 0x30A, 0x482, 0x60C].contains code then 4
  else 8

/-- Adding to EVT.LOST, which saturates (R353). -/
def addLost (l : EventLog) (n : Nat) : EventLog := { l with lost := satAdd 32 l.lost n }

/-- The capture of the first report of a source kind (R354). -/
def captureFirst (l : EventLog) (r : Report) : EventLog :=
  let k := r.source / 4096 % 16
  if (r.cls = 1 || r.cls = 2 || r.cls = 3 || r.cls = 4) && !l.firstValid.getLsbD k then
    { l with firstValid := l.firstValid ||| BitVec.ofNat 16 (2 ^ k)
             first := Table.add l.first k ⟨l.wrSeq, l.cycle, { r with count := 1 }⟩ }
  else l

/-- A report joins the waiting report of its source, or is lost (R351). -/
def queueReport (l : EventLog) (r : Report) : EventLog :=
  match Table.find l.waiting r.source with
  | none => { l with waiting := Table.add l.waiting r.source r }
  | some w =>
    if w.code = r.code && decide (w.count < 0xFFFF) then
      { l with waiting := Table.add l.waiting r.source { w with count := w.count + 1 } }
    else addLost l 1

/-- The block sets a W1C bit: a write in the same management cycle leaves it set (R8). -/
def noteSet (b : Block) (x : W1cBit) : Block := { b with setNow := x :: b.setNow }

/-- FIRST_VALID of a source kind was set in this management cycle, if it was (R8). -/
def firstSet (l : EventLog) (r : Report) (now : List W1cBit) : List W1cBit :=
  if (captureFirst l r).firstValid = l.firstValid then now else .first (r.source / 4096 % 16) :: now

/-- A unit reports an event of a class (R351, R354). -/
def reportAs (b : Block) (source cls code : Nat) (detail : BitVec 128) : Block :=
  let r : Report := ⟨source, cls, code, 1, detail⟩
  { b with evt := queueReport (captureFirst b.evt r) r, setNow := firstSet b.evt r b.setNow }

/-- A unit reports an event. -/
def report (b : Block) (source code : Nat) (detail : BitVec 128) : Block :=
  reportAs b source (classOf code detail) code detail

/-! ## Uncontained errors (R342, R42) -/

/-- The first uncontained error of a job names its end status. -/
def stopJob (b : Block) (code : Nat) : Block :=
  if b.job.running && b.job.stop.isNone then { b with job := { b.job with stop := some code } } else b

/-- The Eddy and index of the first uncontained error of a job, for its report (R437). -/
def noteFirst (b : Block) (e pc : Nat) : Block :=
  if b.job.running && b.job.stop.isNone then { b with job := { b.job with firstEddy := some e, firstPc := pc } } else b

/-- The error of R21, whose code the manual does not give, as the checks of an instruction name it. -/
def seamLost : Nat := 0x1000

/-- An uncontained error of the Task on an Eddy: the capture of EDDY.FAULT, the event, and the stop (R95, R97, R342);
its cycle counter stops with the Gale cycles that it has counted beyond the issue costs (R76, log 9). -/
def taskFault (b : Block) (e pc fault : Nat) : Block :=
  let code := if fault < seamLost then fault else Config.seamLostCode % 4096
  let r := takeFree b
  let b := updEddy (noteSet r.2 (.fault e)) e (fun x =>
    { x with run := .faulted
             cycles := x.cycles + BitVec.ofNat 64 (r.1.toNat % 2 ^ 48)
             wait := .none
             faultValid := true
             faultPc := if x.faultValid then x.faultPc else pc
             faultCode := if x.faultValid then x.faultCode else code })
  stopJob (noteFirst (reportAs b (0x3000 + e) 2 code 0) e pc) code

/-- The half of the block that holds a Current, a link or a port: 0 west, 1 east (R16). -/
def curHalf (n : Nat) : Nat := n / 4
def linkHalf (l : Nat) : Nat := l / 12
def portHalf (f : Nat) : Nat := f / 32

/-- Traffic between the halves has no seam channel (R21). -/
def seamDown (b : Block) : Bool := b.seam.trained && !b.seam.chans.any (fun c => c.2.state == 1)

/-- Traffic between two halves that the seam does not carry (R21). -/
def seamBars (b : Block) (h k : Nat) : Bool := h != k && seamDown b

/-- A transfer that must cross a seam without an active channel: the uncontained error of its source stops the job (R21;
log 31). -/
def seamError (b : Block) (src : Nat) : Block :=
  let code := Config.seamLostCode % 4096
  stopJob (reportAs b src 2 code 0) code

/-- The half of a codec unit by its number in an event source (R349). -/
def codecHalf (u : Nat) : Nat :=
  if u < 0x100 then linkHalf (u % 0x40) else if u < 0x200 then curHalf ((u - 0x100) / 4) else curHalf ((u - 0x200) / 2)

/-- The half that holds the unit of an event source (R349). -/
def sourceHalf (b : Block) (src : Nat) : Nat :=
  let i := src % 0x1000
  match src / 0x1000 with
  | 1 => curHalf (i / 256)
  | 2 => codecHalf i
  | 4 => linkHalf (i % 32)
  | 5 => portHalf i
  | 7 => ((getRegion b i).map (fun r => curHalf r.cur)).getD 0
  | _ => 0

/-- An event recorded at most once per job for an Eddy (R118, R156). -/
def reportOnce (b : Block) (e code key : Nat) : Block :=
  let x := getEddy b e
  if x.once.contains key then b
  else report (putEddy b e { x with once := setInsert x.once key }) (0x3000 + e) code 0

/-! ## Lee addresses (R70, R230, R231) -/

/-- The value is a Lee address: bits [47:34] are 0. -/
def isLeeAddr (a : Nat) : Bool := decide (a < 2 ^ 34)

/-- The Current that a Lee address names. -/
def addrCur (a : Nat) : Nat := a / 2 ^ 31

/-- The offset of a Lee address in its Current. -/
def addrOff (a : Nat) : Nat := a % 2 ^ 31

/-- The block-wide Eddy whose range could hold the address. -/
def addrEddy (a : Nat) : Nat := 16 * addrCur a + addrOff a / 0xC00000

/-- Physical banks of an Eddy still in service, ascending. -/
def banksInService (b : Block) (e : Nat) : List Nat :=
  (List.range 48).filter (fun i => (getBank b e i).state != 2)

/-- NB_e: banks of an Eddy in service (R230). -/
def bankCount (b : Block) (e : Nat) : Nat := (banksInService b e).length

/-- The offset is backed by a bank in service. -/
def isBacked (b : Block) (a : Nat) : Bool :=
  decide (addrOff a < 0x0C000000) &&
    decide (addrOff a % 0xC00000 < bankCount b (addrEddy a) * 0x40000)

/-- The physical bank and row of an address (R231). -/
def bankOf (b : Block) (a : Nat) : Nat × Nat :=
  let l := banksInService b (addrEddy a)
  let w := addrOff a % 0xC00000 / 32
  (l.getD (w % l.length) 0, w / l.length)

/-! ## Granules -/

/-- The stored data bytes of a granule, as a number. -/
def memGran (m : List Host.Cell) (g : Nat) : Granule :=
  granuleOf ((List.range 16).map (fun i => Table.get 0 m (16 * g + i)))

/-- Writing bytes at ascending addresses. -/
def memPut (m : List Host.Cell) (a : Nat) : List Byte → List Host.Cell
  | [] => m
  | x :: r => memPut (Table.put 0 m a x) (a + 1) r

/-- Storing a whole granule with its mark; fresh check bits replace any stored error. -/
def leePut (l : Lee) (g : Nat) (d : Granule) (poison : Bool) : Lee :=
  { l with mem := memPut l.mem (16 * g) (granuleBytes d)
           poison := if poison then setInsert l.poison g else setErase l.poison g
           err := Table.erase l.err g }

/-- Persistent Regions that hold any byte of an Eddy's range (R244). -/
def persistentOn (b : Block) (e : Nat) : List Nat :=
  let lo := e / 16 * 2 ^ 31 + e % 16 * 0xC00000
  (b.lee.regions.filter (fun p =>
    p.2.persistent && decide (p.2.cur * 2 ^ 31 + p.2.base < lo + 0xC00000) &&
      decide (lo < p.2.cur * 2 ^ 31 + p.2.base + p.2.size))).map (·.1)

/-- Region IDs packed 12 bits each from DETAIL[8] upward, at most ten (log 23). -/
def packRegions : List Nat → Nat
  | [] => 0
  | r :: t => r + 4096 * packRegions t

/-- A bank becomes retire-pending (R244). -/
def retirePending (b : Block) (e i : Nat) : Block :=
  let k := getBank b e i
  if k.state = 0 then
    report (putBank b e i { k with state := 1 }) (0x6000 + e) 0x60B
      (BitVec.ofNat 128 (i + 256 * packRegions ((persistentOn b e).take 10)))
  else b

/-- A bank corrects a granule: the count, the write-back, and the first condition of R244. -/
def leeCorrect (b : Block) (g : Nat) (d : Granule) : Block :=
  let e := addrEddy (16 * g)
  let i := (bankOf b (16 * g)).1
  let k := getBank b e i
  let b := putBank b e i { k with corr := satAdd 16 k.corr 1
                                  passCorr := k.passCorr + 1
                                  passGran := setInsert k.passGran g }
  let b := { b with lee := leePut b.lee g d false }
  if (getCur b (addrCur (16 * g))).retireThresh < k.passCorr + 1 then retirePending b e i else b

/-- A bank meets an uncorrectable granule: stored poisoned, 0x60A, and the second condition of R244 (R233). -/
def leeUncorr (b : Block) (g : Nat) (d : Granule) : Block :=
  let e := addrEddy (16 * g)
  let i := (bankOf b (16 * g)).1
  let k := getBank b e i
  let again := k.passGran.contains g
  let b := putBank b e i { k with passGran := setInsert k.passGran g }
  let b := { b with lee := leePut b.lee g d true }
  let b := report b (0x6000 + e) 0x60A (BitVec.ofNat 128 i)
  if again then retirePending b e i else b

/-- A read of a granule by its bank (R233): data, mark, and what the read did. -/
def leeRead (b : Block) (g : Nat) : Granule × Bool × Block :=
  let d := memGran b.lee.mem g
  let p := b.lee.poison.contains g
  match Table.find b.lee.err g with
  | none => (d, p, b)
  | some pat =>
    match decodeGranule (encodeGranule d p ^^^ pat) with
    | (d', .clean) => (d', false, b)
    | (d', .poisoned) => (d', true, b)
    | (d', .corrected) => (d', false, leeCorrect b g d')
    | (d', .uncorrectable) => (d', true, leeUncorr b g d')

/-- A unit of a Current writes a whole granule; a poisoned one counts in FLT.POISON_n (R341). -/
def leeWrite (b : Block) (n g : Nat) (d : Granule) (poison : Bool) : Block :=
  let b := { b with lee := leePut b.lee g d poison }
  if poison then updCur b n (fun c => { c with poisonCount := satAdd 32 c.poisonCount 1 }) else b

/-- Reading n granules. -/
def leeReadN (b : Block) (g : Nat) : Nat → List (Granule × Bool) × Block
  | 0 => ([], b)
  | n + 1 =>
    let r := leeRead b g
    let t := leeReadN r.2.2 (g + 1) n
    ((r.1, r.2.1) :: t.1, t.2)

/-- Writing granules one after another. -/
def leeWriteN (b : Block) (n g : Nat) : List (Granule × Bool) → Block
  | [] => b
  | x :: r => leeWriteN (leeWrite b n g x.1 x.2) n (g + 1) r

/-- Bytes with the mark of their granule. -/
abbrev Marked := List (Byte × Bool)

/-- Reading n bytes at an address. -/
def leeBytesAt (b : Block) (a n : Nat) : Marked × Block :=
  if n = 0 then ([], b)
  else
    let r := leeReadN b (a / 16) ((a + n - 1) / 16 + 1 - a / 16)
    (((r.1.flatMap (fun p => (granuleBytes p.1).map (fun x => (x, p.2)))).drop (a % 16)).take n, r.2)

/-- The bytes of a granule with some replaced from position i on. -/
def overlay (old : List Byte) (i : Nat) (new : Marked) : List Byte :=
  old.take i ++ new.map (·.1) ++ old.drop (i + new.length)

/-- A write of part of one granule is a read-modify-write that keeps its mark (R56); a write of all of it reads nothing. -/
def leeMerge (b : Block) (n g i : Nat) (new : Marked) : Block :=
  if new.length = 16 then leeWrite b n g (granuleOf (new.map (·.1))) (new.any (·.2))
  else
    let r := leeRead b g
    leeWrite r.2.2 n g (granuleOf (overlay (granuleBytes r.1) i new)) (new.any (·.2) || r.2.1)

/-- Writing bytes at an address, granule by granule; fuel bounds the granules. -/
def leePutBytes : Nat → Block → Nat → Nat → Marked → Block
  | 0, b, _, _, _ => b
  | _, b, _, _, [] => b
  | f + 1, b, n, a, l =>
    let k := 16 - a % 16
    leePutBytes f (leeMerge b n (a / 16) (a % 16) (l.take k)) n (a + k) (l.drop k)

/-- Writing bytes at an address. -/
def leeWriteBytes (b : Block) (n a : Nat) (l : Marked) : Block := leePutBytes (l.length + 1) b n a l

/-- A little-endian value of marked bytes, and whether any is marked. -/
def markedNat (l : Marked) : Nat × Bool := (leNat (l.map (·.1)), l.any (·.2))

/-! ## Checked paths (R338) -/

/-- What a checked path did with granules: those delivered, the patterns left, and the counts of corrected and of
uncorrectable ones. -/
structure Passed where
  grans : List (Granule × Bool)
  left : List Stored
  corr : Nat
  bad : Nat
deriving DecidableEq, Repr

/-- Granules over a path: an error pattern is corrected, or poisons its granule in place (R336). -/
def passGrans : List Stored → List (Granule × Bool) → Passed
  | [], l => ⟨l, [], 0, 0⟩
  | e, [] => ⟨[], e, 0, 0⟩
  | e :: es, g :: gs =>
    let t := passGrans es gs
    match decodeGranule (encodeGranule g.1 g.2 ^^^ e) with
    | (d, .clean) => { t with grans := (d, false) :: t.grans }
    | (d, .poisoned) => { t with grans := (d, true) :: t.grans }
    | (d, .corrected) => { t with grans := (d, false) :: t.grans, corr := t.corr + 1 }
    | (d, .uncorrectable) => { t with grans := (d, true) :: t.grans, bad := t.bad + 1 }

/-- An event reported a number of times. -/
def reportTimes (b : Block) (src code : Nat) : Nat → Block
  | 0 => b
  | n + 1 => reportTimes (report b src code 0) src code n

/-- Granules over the switch of Current n: corrections count in FLT.CORR_n.SWITCH, uncorrectable ones record 0x60F. -/
def passSwitch (b : Block) (n : Nat) (l : List (Granule × Bool)) : List (Granule × Bool) × Block :=
  let p := passGrans (getCur b n).switchErr l
  if (getCur b n).switchErr.isEmpty then (l, b)
  else (p.grans, reportTimes (updCur b n (fun c =>
    { c with switchErr := p.left, corrSwitch := satAdd 16 c.corrSwitch p.corr })) (0xA000 + n) 0x60F p.bad)

/-- Granules over a half-crossbar, 0 west or 1 east: FLT.XBAR and 0x484. -/
def passXbar (b : Block) (half : Nat) (l : List (Granule × Bool)) : List (Granule × Bool) × Block :=
  let s := b.seam
  if (if half = 0 then s.westErr else s.eastErr).isEmpty then (l, b)
  else if half = 0 then
    let p := passGrans s.westErr l
    (p.grans, reportTimes { b with seam := { s with westErr := p.left, xbarWest := satAdd 16 s.xbarWest p.corr } }
      0x9000 0x484 p.bad)
  else
    let p := passGrans s.eastErr l
    (p.grans, reportTimes { b with seam := { s with eastErr := p.left, xbarEast := satAdd 16 s.xbarEast p.corr } }
      0x9001 0x484 p.bad)

/-- An end of a path: the units of a Current, or a port or link of a half. -/
inductive Place where
  | cur (n : Nat)
  | edge (half : Nat)
deriving DecidableEq, Repr

/-- The half of an end. -/
def Place.half : Place → Nat
  | .cur n => curHalf n
  | .edge h => h

/-- Granules from one end to another: over the switch of a Current at either end, and over the half-crossbars between
(R14, R15). -/
def movePath (b : Block) (src dst : Place) (l : List (Granule × Bool)) : List (Granule × Bool) × Block :=
  let out := match src with
    | .cur n => passSwitch b n l
    | .edge _ => (l, b)
  if src = dst && (match src with
    | .cur _ => true
    | .edge _ => false) then out
  else
    let near := passXbar out.2 src.half out.1
    let far := if src.half = dst.half then near else passXbar near.2 dst.half near.1
    match dst with
    | .cur n => passSwitch far.2 n far.1
    | .edge _ => far

/-- Operand words into the Vane input registers of an Eddy: corrections count in FLT.CORR_n.MAT, uncorrectable ones poison
and record 0x312. -/
def vaneIn (b : Block) (e : Nat) (l : Marked) : Marked × Block :=
  let x := getEddy b e
  let p := passGrans x.vaneErr ((chunks l.length 16 l).map (fun c => (granuleOf (c.map (·.1)), c.any (·.2))))
  if x.vaneErr.isEmpty then (l, b)
  else
    let b := updCur (putEddy b e { x with vaneErr := p.left }) (e / 16) (fun c =>
      { c with corrMat := satAdd 16 c.corrMat p.corr })
    ((p.grans.flatMap (fun g => (granuleBytes g.1).map (fun y => (y, g.2)))).take l.length,
      reportTimes b (0x3000 + e) 0x312 p.bad)

/-! ## Checks of operands in Lee (R31, R97, R238, R248) -/

/-- The Region of the job that holds an address. -/
def heldRegionAt (b : Block) (a : Nat) : Option Region :=
  (b.lee.regions.find? (fun p => p.2.held && p.2.cur == addrCur a &&
    decide (p.2.base ≤ addrOff a) && decide (addrOff a < p.2.base + p.2.size))).map (·.2)

/-- Every byte from a up to stop lies in Regions that the job holds, none of them STASH, and none of the written ones
in a reduction header; fuel bounds the Regions passed. -/
def checkCover (b : Block) (write : Bool) (stop : Nat) : Nat → Nat → Except Nat Unit
  | 0, a => if a < stop then .error 0x605 else .ok ()
  | f + 1, a =>
    if stop ≤ a then .ok ()
    else match heldRegionAt b a with
      | none => .error 0x605
      | some r =>
        if r.kind = .stash then .error 0x606
        else if write && r.kind = .reduce && decide (addrOff a < r.base + 64) then .error 0x606
        else checkCover b write stop f (r.cur * 2 ^ 31 + r.base + r.size)

/-- An operand of n bytes in the Lee memory of Current c (R31): codes as R97 gives them. -/
def checkOwn (b : Block) (c : Nat) (write : Bool) (a n : Nat) : Except Nat Unit :=
  if !isLeeAddr a || addrCur a != c then .error 0x384
  else if n = 0 then .ok ()
  else if addrCur (a + n - 1) != c then .error 0x384
  else checkCover b write (a + n) (b.lee.regions.length + 1) a

/-- An operand of n bytes in any usable Current (R84). -/
def checkAny (b : Block) (write : Bool) (a n : Nat) : Except Nat Unit :=
  if !isLeeAddr a || !curUsable b (addrCur a) then .error 0x384
  else if n = 0 then .ok ()
  else checkCover b write (a + n) (b.lee.regions.length + 1) a

/-! ## Reduction headers (R238) -/

/-- The address of the first byte of a Region. -/
def regionAddr (r : Region) : Nat := r.cur * 2 ^ 31 + r.base

/-- The eight bytes at an 8-byte aligned address, as stored; readHeader checks a header before. -/
def memDword (m : List Host.Cell) (a : Nat) : DWord :=
  BitVec.ofNat 64 (leNat ((List.range 8).map (fun i => Table.get 0 m (a + i))))

def armword (b : Block) (r : Region) : DWord := memDword b.lee.mem (regionAddr r)

def redStatus (b : Block) (r : Region) : Nat := (memDword b.lee.mem (regionAddr r + 8)).toNat

/-- The bank reads the first granule of a header, and checks it (R233). -/
def readHeader (b : Block) (r : Region) : Block := (leeRead b (regionAddr r / 16)).2.2

/-- The bank writes STATUS or ARMWORD into the header granule it has read; fresh check bits, the mark kept. -/
def putHeader (b : Block) (r : Region) (off : Nat) (v : Nat) : Block :=
  let a := regionAddr r + off
  let g := a / 16
  let d := granuleOf (overlay (granuleBytes (memGran b.lee.mem g)) (a % 16) ((leBytes 8 v).map (fun x => (x, false))))
  { b with lee := leePut b.lee g d (b.lee.poison.contains g) }

/-- The Region is ARMED. -/
def redArmed (b : Block) (r : Region) : Bool := bit (redStatus b r) 63

end Sys2Proof.Machine
end

