-- ==== Sys2Proof/Machine/Packets.lean ====
section
/-! DEFINITION. Packets of the links (R275), the queues that packets and fabric granules enter on their way out, and
completion entries on their way to the host (R431). -/

namespace Sys2Proof.Machine

/-! ## Packet headers (R275) -/

/-- A packet header as 16 bytes: PTYPE, LEN, the fields of [103:32] and those of [31:0]. -/
def pktHeader (ptype len mid low : Nat) : List Byte :=
  leBytes 16 (ptype * 2 ^ 120 + len * 2 ^ 104 + mid * 2 ^ 32 + low)

/-- PMASK and data of marked bytes, granule by granule. -/
def pmaskOf (l : Marked) : Nat :=
  ((chunks l.length 16 l).map (fun g => g.any (·.2))).foldr (fun p n => b2n p + 2 * n) 0

/-- The mid fields of READ_REQ and WRITE_REQ: TAG or WID in [103:88], STORE, offset ÷ 16 in [75:35]. -/
def reqMid (tag store off : Nat) : Nat := tag * 2 ^ 56 + store * 2 ^ 44 + off / 16 * 2 ^ 3

/-- An EGRESS packet of up to 512 bytes. -/
def egressPkt (owner : LinkOwner) (l : Marked) : LinkPkt :=
  ⟨owner, pktHeader 0x30 (l.length / 16) 0 (pmaskOf l) ++ l.map (·.1)⟩

/-- A packet put at the end of a VC's queue. -/
def pushPkt (k : Link) (vc : Nat) (p : LinkPkt) : Link :=
  if vc = 1 then { k with tx1 := k.tx1 ++ [p] }
  else if vc = 2 then { k with tx2 := k.tx2 ++ [p] }
  else { k with tx3 := k.tx3 ++ [p] }

/-- The send credits of a VC. -/
def creditOf (k : Link) (vc : Nat) : Nat := if vc = 1 then k.credit1 else if vc = 2 then k.credit2 else k.credit3

/-! ## Poison counts (R341) -/

/-- Granules of marked bytes that carry a mark. -/
def poisonedGrans (l : Marked) : Nat := (chunks l.length 16 l).countP (fun g => g.any (·.2))

/-- A unit of Current n sends poisoned granules onto a port or a link. -/
def countPoison (b : Block) (n k : Nat) : Block :=
  if k = 0 then b else updCur b n (fun c => { c with poisonCount := satAdd 32 c.poisonCount k })

/-! ## Fabric granules on their way out (R320, R321) -/

/-- Marked bytes as granules; a short last one is filled with zero bytes. -/
def granulesOf (l : Marked) : List (Granule × Bool) :=
  (chunks l.length 16 l).map (fun g => (granuleOf (g.map (·.1)), g.any (·.2)))

/-- Granules of a message that its source has supplied. -/
def TxMsg.supplied (m : TxMsg) : Nat := 16 * m.flits + m.data.length

/-- The message takes further granules of its owner. -/
def TxMsg.takes (m : TxMsg) (o : TxOwner) : Bool := m.owner == o && !m.closed && decide (m.supplied < m.len)

/-- Granules added to the open message of an owner, and what does not fit. -/
def feedOpen (o : TxOwner) (g : List (Granule × Bool)) : List TxMsg → List TxMsg × List (Granule × Bool)
  | [] => ([], g)
  | m :: r =>
    if m.takes o then
      let n := m.len - m.supplied
      ({ m with data := m.data ++ g.take n } :: r, g.drop n)
    else
      let t := feedOpen o g r
      (m :: t.1, t.2)

/-- Granules of a run that is consecutive in destination offset; a new message takes what is left of the run, up to
MSG_FLITS body flits. Fuel bounds the messages. -/
def feedRun : Nat → Port → Nat → TxOwner → Nat → Nat → Nat → List (Granule × Bool) → Port
  | 0, p, _, _, _, _, _, _ => p
  | _, p, _, _, _, _, _, [] => p
  | k + 1, p, c, o, region, off, left, g =>
    let f := feedOpen o g (txQueue p c)
    let n := g.length - f.2.length
    if n = 0 then
      feedRun k (setTxQueue p c (txQueue p c ++ [⟨o, 0, region, off, min left (msgGrans p), [], false, false, 0⟩]))
        c o region off left g
    else feedRun k (setTxQueue p c f.1) c o region (off + 16 * n) (left - n) f.2

/-- A source ends: its messages are closed; one whose head has not been sent keeps what it holds. -/
def closeMsgs (o : TxOwner) (q : List TxMsg) : List TxMsg :=
  (q.map (fun m =>
    if m.owner == o && !m.closed then
      (if m.headSent then { m with closed := true } else { m with closed := true, len := m.data.length })
    else m)).filter (fun m => !(m.owner == o && m.closed && !m.headSent && m.len == 0))

/-- Every message of an owner on a port closed. -/
def closePort (o : TxOwner) (p : Port) : Port :=
  { p with tx := (p.tx.map (fun q => (q.1, closeMsgs o q.2))).filter (fun q => !q.2.isEmpty) }

/-- Every message of an owner closed. -/
def closeOwner (b : Block) (o : TxOwner) : Block :=
  { b with ports := Table.mapAll Port.fresh b.ports (closePort o) }

/-- Every message of a codec unit closed. -/
def closeCodec (b : Block) (u : Nat) : Block := closeOwner (closeOwner b (.codec u false)) (.codec u true)

/-! ## Completion entries (R431) -/

/-- A completion entry. -/
def cplEntry (tag opcode kind status number : Nat) (result : Nat) : BitVec 256 :=
  BitVec.ofNat 256 (tag % 2 ^ 32 + opcode % 2 ^ 16 * 2 ^ 32 + kind * 2 ^ 48 + status % 2 ^ 12 * 2 ^ 64 +
    number % 2 ^ 32 * 2 ^ 96 + result % 2 ^ 128 * 2 ^ 128)

/-- An entry sent on its way. -/
def pushCpl (b : Block) (dest : Nat) (e : BitVec 256) : Block :=
  { b with host := { b.host with cpls := b.host.cpls ++ [⟨dest, e⟩] } }

/-- An entry of kind 2 or 3 for the notify ring, while NOTIFY.EN is 1 (R431). -/
def notify (b : Block) (e : BitVec 256) : Block := if b.host.notifyEn then pushCpl b b.host.notifyRing e else b

/-! ## Commands of the host (R431, R432) -/

/-- OPCODE, TAG and argument k of a command entry. -/
def cmdOpcode (e : BitVec 512) : Nat := fld e.toNat 15 0
def cmdTag (e : BitVec 512) : Nat := fld e.toNat 63 32
def cmdArg (e : BitVec 512) (k : Nat) : Nat := fld e.toNat (64 * k + 127) (64 * k + 64)

/-- A command ends: its completion entry is on its way, and its source can run another. -/
def finishCmd (b : Block) (src status number result : Nat) : Block :=
  match Table.find b.host.running src with
  | none => b
  | some c =>
    let b := { b with host := { b.host with running := Table.erase b.host.running src } }
    if c.silent then b
    else pushCpl b src (cplEntry (cmdTag c.entry) (cmdOpcode c.entry) 0 status number result)

/-- A command has started, and its completion follows another event. -/
def startCmd (b : Block) (src : Nat) : Block :=
  match Table.find b.host.running src with
  | none => b
  | some c => { b with host := { b.host with running := Table.add b.host.running src { c with started := true } } }

/-- The capability record changed: UPDATE_SEQ rises (R57). Where the change has a code of its own, the caller records its
event (R58). -/
def bumpRecord (b : Block) : Block := { b with host := { b.host with updateSeq := b.host.updateSeq + 1 } }

/-- A change of the record whose event no rule names: Windsock records it as a notice (R58; log 146). Before S7 there is no
record to change. -/
def recordChange (b : Block) : Block :=
  let b := bumpRecord b
  match b.start.phase with
  | .run => reportAs b 0 8 Config.recordCode 0
  | .calm => reportAs b 0 8 Config.recordCode 0
  | _ => b

end Sys2Proof.Machine
end

