-- ==== Sys2Proof/Machine/Events.lean ====
section
/-! DEFINITION. The event log: reports, records, coalescing, captures, and the counters of the fault window (R348 to
R357). -/

namespace Sys2Proof.Machine

/-- R351: a unit reports an event. -/
def execEventReport (source code : Nat) (detail : BitVec 128) (s : State) :=
  onBlock (fun b => report b (source % 2 ^ 16) (code % 4096) detail) s

/-- The waiting report that the round robin takes: of the lowest source above the last one taken, else of the lowest
(R351). -/
def nextWaiting (l : EventLog) : Option (Nat × Report) :=
  match l.waiting.find? (fun p => decide (l.lastTaken < p.1)) with
  | some p => some p
  | none => l.waiting.head?

/-- Records between the read point and the write point. -/
def unread (l : EventLog) : Nat := (l.wrSeq - l.rdSeq).toNat

/-- A record is open (R352). -/
def isOpen (l : EventLog) (r : EventRecord) : Bool :=
  let age := (l.wrSeq - r.seq).toNat
  decide (1 ≤ age) && decide (age ≤ 64) && decide (age ≤ unread l) && decide (r.report.count < 0xFFFF) &&
    decide ((l.cycle + 2 ^ 48 - r.stamp) % 2 ^ 48 < l.window)

/-- The most recently appended of some records. -/
def latestRecord (l : EventLog) : List (Nat × EventRecord) → Option (Nat × EventRecord)
  | [] => none
  | x :: t =>
    match latestRecord l t with
    | none => some x
    | some y => if (l.wrSeq - x.2.seq).toNat ≤ (l.wrSeq - y.2.seq).toNat then some x else some y

/-- The open record of a source and code that takes a report (R352). -/
def coalesceInto (l : EventLog) (r : Report) : Option (Nat × EventRecord) :=
  if !l.coalesceEn then none
  else latestRecord l (l.records.filter (fun p =>
    p.2.report.source == r.source && p.2.report.code == r.code && isOpen l p.2))

/-- The bits [111:80] of a record: SOURCE, CLASS and CODE (R348, R431). -/
def recordWord (r : Report) : Nat := r.source % 2 ^ 16 + r.cls % 16 * 2 ^ 16 + r.code % 4096 * 2 ^ 20

/-- A report appended as a record; a full log loses its oldest (R353). Its completion entry of kind 2 follows unless it
is a notice (R431). -/
def appendReport (b : Block) (r : Report) : Block :=
  let l := b.evt
  let l := if unread l = 4096 then addLost { l with rdSeq := l.rdSeq + 1 } 1 else l
  let rec' : EventRecord := ⟨l.wrSeq, l.cycle, r⟩
  let b := { b with evt := { l with
    records := Table.add l.records (l.wrSeq.toNat % 4096) rec', wrSeq := l.wrSeq + 1 } }
  if r.cls = 8 then b else notify b (cplEntry 0 0 2 r.code rec'.seq.toNat (recordWord r))

/-- R351, R352: the log takes a waiting report, and merges it into an open record or appends it. -/
def eventAppend (b : Block) : Block :=
  match nextWaiting b.evt with
  | none => b
  | some (src, r) =>
    let b := { b with evt := { b.evt with waiting := Table.erase b.evt.waiting src, lastTaken := src } }
    match coalesceInto b.evt r with
    | none => appendReport b r
    | some (i, x) =>
      let sum := x.report.count + r.count
      let b := { b with evt := { b.evt with
        records := Table.add b.evt.records i { x with report := { x.report with count := min 0xFFFF sum } } } }
      if 0xFFFF < sum then appendReport b { r with count := sum - 0xFFFF } else b

def execEventAppend (s : State) := onBlock eventAppend s

/-- R353: a write of EVT.RD_SEQ takes effect from RD_SEQ to WR_SEQ. -/
def evtRdSeqWrite (v : Word) (b : Block) : Block :=
  if (v - b.evt.rdSeq).toNat ≤ unread b.evt then { b with evt := { b.evt with rdSeq := v } } else b

def execEvtRdSeqWrite (v : BitVec 32) (s : State) := onBlock (evtRdSeqWrite v) s

/-- R356: CLR_LOST. -/
def evtClrLost (b : Block) : Block := { b with evt := { b.evt with lost := 0 } }

def execEvtCtrlClrLost (s : State) := onBlock evtClrLost s

/-- R356: CLR_LOG. -/
def evtClrLog (b : Block) : Block := { b with evt := { b.evt with rdSeq := b.evt.wrSeq } }

def execEvtCtrlClrLog (s : State) := onBlock evtClrLog s

/-- R357: CLR_COUNTS of the fault window. -/
def fltClr (b : Block) : Block :=
  { b with
    currents := Table.mapAll Current.fresh b.currents (fun c => { c with corrMat := 0, corrSwitch := 0 })
    seam := { b.seam with xbarEast := 0, xbarWest := 0 } }

def execFltCtrlClrCounts (s : State) := onBlock fltClr s

/-- A report of a source and code after the first of the Flow job (R191, R210): it joins a waiting report or an open
record, and makes none of its own. -/
def laterReport (b : Block) (source code : Nat) : Block :=
  if (Table.find b.evt.waiting source).any (fun w => w.code == code) then report b source code 0
  else match coalesceInto b.evt ⟨source, classOf code 0, code, 1, 0⟩ with
    | some (i, x) => { b with evt := { b.evt with
        records := Table.add b.evt.records i { x with report := { x.report with count := x.report.count + 1 } } } }
    | none => b

/-! ## Counters of the Eddies and of Lee (R95, R127, R155, R249) -/

/-- A change of an Eddy's registers, for an Eddy of a Current whose window is there (R13). -/
def onEddy (f : Eddy → Eddy) (e : Nat) (s : State) :=
  onBlock (fun b => if curUsable b (e / 16) then updEddy b e f else b) s

def clrImemErr (x : Eddy) : Eddy := { x with imemCorr := 0 }

def execEddyCtrlClrImemErr (e : Nat) (s : State) := onEddy clrImemErr e s

def clrResidue (x : Eddy) : Eddy := { x with residue := [] }

def execEddyMatCtrlClrResidue (e : Nat) (s : State) := onEddy clrResidue e s

def clrMatFlags (x : Eddy) : Eddy := { x with longDrains := 0, satDrains := 0 }

def execEddyMatCtrlClrFlags (e : Nat) (s : State) := onEddy clrMatFlags e s

def clrQntStat (x : Eddy) : Eddy := { x with nanCvt := 0, satCvt := 0 }

def execEddyQntCtrlClrStat (e : Nat) (s : State) := onEddy clrQntStat e s

/-- R249: LEE.CTRL.CLR_COUNTS of Current n, while its window is there (R13). -/
def leeClr (n : Nat) (b : Block) : Block :=
  if !curUsable b n then b
  else
    let b := updCur b n (fun c => { c with scrubPasses := 0, scrubUncorr := 0, atomRefused := 0, atomLate := 0 })
    { b with lee := { b.lee with
      banks := Table.mapKeys Bank.fresh b.lee.banks (fun k x => if k / 768 = n then { x with corr := 0 } else x) } }

def execLeeCtrlClrCounts (n : Nat) (s : State) := onBlock (leeClr n) s

end Sys2Proof.Machine
end

