-- ==== Sys2Proof/Machine/Gates.lean ====
section
/-! DEFINITION. The Gate units: signals, waits, barriers (R44, R45, R87, R88, R450). -/

namespace Sys2Proof.Machine

/-- The value after the waits that it meets, in order; the waits that stay; the Eddies let through (R45). -/
def testWaits (v : Nat) : List GateWait → Nat × List GateWait × List Nat
  | [] => (v, [], [])
  | k :: r =>
    if k.thresh ≤ v then
      let t := testWaits (v - k.thresh) r
      (t.1, t.2.1, k.eddy :: t.2.2)
    else
      let t := testWaits v r
      (t.1, k :: t.2.1, t.2.2)

/-- A Gate lets the wait of each Eddy through; its wake follows (R89). -/
def letThrough (b : Block) (g : Nat) : List Nat → Block
  | [] => b
  | e :: r => letThrough (updEddy b e (fun x => { x with wait := .gate g true })) g r

/-- A count added to a Gate outside barrier use, and its waits tested (R44, R45). -/
def addSignal (b : Block) (g n : Nat) : Block :=
  let k := getGate b g
  let v := min (k.value + n) 0xFFFFFFFF
  let t := testWaits v k.waits
  let past := decide (0xFFFFFFFF < k.value + n)
  let b := if past then noteSet b (.ovf g) else b
  letThrough (putGate b g { k with value := t.1, waits := t.2.1, ovf := k.ovf || past })
    g t.2.2

/-- A signal from a stream completion, a COD job end, a reduction or a landing range: dropped at a Gate that no job
holds (R450), an uncontained BAR_MISMATCH at a Gate in barrier use (R88), and lost where no seam channel carries it (R21). -/
def unitSignal (b : Block) (source g n : Nat) : Block :=
  let k := getGate b g
  if !k.held then b
  else if seamBars b (sourceHalf b source) (curHalf (g / 1024)) then seamError b source
  else if k.barUse then stopJob (report b source 0x387 0) 0x387
  else addSignal b g n

end Sys2Proof.Machine
end

