-- ==== Sys2Proof/Machine/Operands.lean ====
section
/-! DEFINITION. Registers by specifier and every operand form of the instruction classes: the fields of an instruction
word and the checks that decode makes of them (R66 to R70, R76, R81, R84, R86, R91, R103, R108, R111, R115, R121, R137,
R186, R205). -/

namespace Sys2Proof.Machine

/-! ## Registers (R67, R68, R70, R339) -/

/-- A specifier of a scalar register. -/
def isSreg (r : Nat) : Bool := decide (r < 0x20)

/-- A specifier of an address register. -/
def isAreg (r : Nat) : Bool := decide (0x20 ≤ r) && decide (r < 0x30)

/-- A specifier of a predicate bit. -/
def isPreg (r : Nat) : Bool := decide (0x38 ≤ r)

/-- The value a register reads as, zero-extended to 64 bits; p0 reads 1. -/
def readReg (x : Eddy) (r : Nat) : DWord :=
  if r < 0x20 then x.sreg[r % 32]'(Nat.mod_lt _ (by decide))
  else if r < 0x30 then (x.areg[r % 16]'(Nat.mod_lt _ (by decide))).setWidth 64
  else if r < 0x38 then (x.lreg[r % 8]'(Nat.mod_lt _ (by decide))).setWidth 64
  else if r = 0x38 then 1
  else if x.preg.getLsbD (r % 8) then 1 else 0

/-- The poison bit of a register; p0 has none. -/
def regPoison (x : Eddy) (r : Nat) : Bool := r != 0x38 && x.poison.getLsbD r

/-- A bit of a bit vector set to a value. -/
def setBit {w : Nat} (x : BitVec w) (i : Nat) (v : Bool) : BitVec w :=
  if v then x ||| BitVec.ofNat w (2 ^ i) else x &&& ~~~BitVec.ofNat w (2 ^ i)

/-- A 64-bit result written to a register, which keeps the low-order bits it holds (R70), with its poison bit (R339);
p0 keeps its value. -/
def writeReg (x : Eddy) (r : Nat) (v : DWord) (poison : Bool) : Eddy :=
  let x := if r = 0x38 then x else { x with poison := setBit x.poison r poison }
  if r < 0x20 then { x with sreg := x.sreg.set (r % 32) v (Nat.mod_lt _ (by decide)) }
  else if r < 0x30 then { x with areg := x.areg.set (r % 16) (v.setWidth 48) (Nat.mod_lt _ (by decide)) }
  else if r < 0x38 then { x with lreg := x.lreg.set (r % 8) (v.setWidth 32) (Nat.mod_lt _ (by decide)) }
  else if r = 0x38 then x
  else { x with preg := setBit x.preg (r % 8) (v.getLsbD 0) }

/-- The register is the counter of an active hardware loop. -/
def isLiveCounter (x : Eddy) (r : Nat) : Bool := x.loops.any (fun l => r == 0x30 + l.lc)

/-- A register write by an instruction: the counter of an active loop raises ILLEGAL (R70). -/
def setReg (x : Eddy) (r : Nat) (v : DWord) (poison : Bool) : Except Nat Eddy :=
  if isLiveCounter x r then .error 0x380 else .ok (writeReg x r v poison)

/-- A register used for control: a poisoned one raises POISON_CTL (R340). -/
def ctlReg (x : Eddy) (r : Nat) : Except Nat Nat :=
  if regPoison x r then .error 0x38B else .ok (readReg x r).toNat

/-- The predicate field names a poisoned bit (R68). -/
def predPoison (x : Eddy) (p : Nat) : Bool := regPoison x (0x38 + p % 8)

/-- The test of a predicate field (R68). -/
def predHolds (x : Eddy) (p : Nat) : Bool := (readReg x (0x38 + p % 8) == 1) != bit p 3

/-! ## Fields of an instruction word -/

/-- CLASS, OP and PRED (R66). -/
def insClass (w : Nat) : Nat := fld w 127 124
def insOp (w : Nat) : Nat := fld w 123 120
def insPred (w : Nat) : Nat := fld w 119 116

/-- Bits hi down to lo are 0. -/
def isZero (w hi lo : Nat) : Bool := fld w hi lo == 0

/-- A count of 32 bits from CIMM or CREG: the field places are those of VEC and RED (R91). -/
def vecCount (x : Eddy) (w : Nat) : Except Nat Nat :=
  if bit w 57 then (ctlReg x (fld w 63 58)).map (fun v => v % 2 ^ 32) else .ok (fld w 31 0)

/-- A 7-bit operand field of VEC and RED: an address register, or a scalar register for Slots (R91). -/
def isVecOperand (f : Nat) : Bool := if bit f 6 then isSreg (f % 64) else isAreg (f % 64)

/-! ## Decode checks (R67, R69) -/

/-- CTL (R76). -/
def legalCtl (w : Nat) : Bool :=
  match insOp w with
  | 0 => isZero w 115 0
  | 1 => isZero w 101 0
  | 2 => isZero w 109 0
  | 3 => isZero w 101 0
  | 4 => isZero w 115 0
  | 5 => isZero w 91 32
  | 6 => isZero w 115 0
  | 7 => isZero w 115 16
  | 8 => isZero w 109 0
  | _ => false

/-- SCA (R81, R83). -/
def legalSca (w : Nat) : Bool :=
  let op := insOp w
  isZero w 91 64 && fld w 97 96 != 3 &&
    (if op = 0xC then decide (fld w 95 92 < 8) && isPreg (fld w 115 110)
     else if op = 0xD then true
     else if op = 0xE then isZero w 95 92 && isAreg (fld w 109 104) && fld w 97 96 == 1
     else if op = 0xF then
       isZero w 95 92 && isAreg (fld w 109 104) && fld w 97 96 == 1 && isZero w 115 110
     else isZero w 95 92)

/-- MOV (R84). -/
def legalMov (w : Nat) : Bool :=
  insOp w == 0 && isAreg (fld w 115 110) && isAreg (fld w 109 104) && isZero w 96 13

/-- STR (R205). -/
def legalStr (w : Nat) : Bool :=
  let op := insOp w
  let arm := op == 0 || op == 1
  let ring := op == 3 || op == 4
  let sid := arm || op == 2 || op == 5
  decide (op ≤ 5) && isZero w 75 0 &&
    (if arm then isAreg (fld w 109 104) && isSreg (fld w 103 98) else isZero w 109 98) &&
    (if ring then isSreg (fld w 97 92) else isZero w 97 92) &&
    (if sid then
       (if bit w 91 then isSreg (fld w 90 85) && isZero w 84 77 else isZero w 90 85)
     else isZero w 91 77) &&
    (op == 2 || isZero w 76 76)

/-- The block-scale fields of a Tile or of activations (R103). -/
def legalScales (gran fmt : Nat) : Bool := decide (gran ≤ 3) && (!(gran == 1 || gran == 2) || fmt == 0)

/-- MAT (R103, R108, R111, R115); R67 has every AREG, ASREG and DREG name an address register (log 10). -/
def legalMat (w : Nat) : Bool :=
  match insOp w with
  | 0 => isZero w 93 14
  | 1 =>
    isZero w 74 0 && fld w 115 108 != 0 && decide (fld w 107 104 ≤ 0xA) &&
      decide (1 ≤ fld w 94 88) && decide (fld w 94 88 ≤ 64) &&
      decide (1 ≤ fld w 87 81) && decide (fld w 87 81 ≤ 64) &&
      legalScales (fld w 80 78) (fld w 77 76) &&
      (isZero w 80 78 || decide (fld w 107 104 ≤ 7)) && isAreg (fld w 102 97)
  | 2 => isZero w 107 0 && fld w 115 108 != 0
  | 3 =>
    isZero w 34 16 && decide (fld w 107 104 ≤ 0xB) && isAreg (fld w 103 98) && isSreg (fld w 58 53) &&
      legalScales (fld w 52 50) (fld w 49 48) && isAreg (fld w 47 42) &&
      !(decide (1 < popBits 8 (fld w 115 108)) && fld w 71 59 == 0)
  | 6 => isZero w 106 0 && isAreg (fld w 112 107)
  | op =>
    (op == 4 || op == 5) && isZero w 57 42 && isZero w 34 14 &&
      decide (6 ≤ fld w 76 73) && decide (fld w 76 73 ≤ 0xB) && decide (fld w 72 71 ≤ 1) &&
      isAreg (fld w 82 77) && isAreg (fld w 70 65) &&
      (if bit w 83 then isSreg (fld w 89 84) && isZero w 63 58 else isAreg (fld w 89 84))

/-- The number of sources of a VEC OP: VFMA three, the binary ones two, the others one. -/
def vecSources (op : Nat) : Nat :=
  if op = 3 then 3 else if op ≤ 2 || op = 4 || op = 5 || op = 6 then 2 else 1

/-- VEC (R91). -/
def legalVec (w : Nat) : Bool :=
  let op := insOp w
  let n := vecSources op
  let sf := fld w 83 80
  let df := fld w 87 84
  let src1 := fld w 108 102
  let src2 := fld w 101 95
  let src3 := fld w 94 88
  let slotSrc := bit src1 6 || (decide (2 ≤ n) && bit src2 6) || (decide (3 ≤ n) && bit src3 6)
  decide (op < 0xF) && isZero w 71 64 && isZero w 56 32 && decide (fld w 79 78 ≤ 1) &&
    isVecOperand (fld w 115 109) && isVecOperand src1 &&
    (if 2 ≤ n then isVecOperand src2 else src2 == 0) &&
    (if 3 ≤ n then isVecOperand src3 else src3 == 0) &&
    (op == 4 || isZero w 77 72) &&
    (df == 8 || df == 9 || df == 0xA) && (sf == 8 || sf == 9 || sf == 0xA || (sf == 0xB && op == 0xE)) &&
    (!bit w 115 || df == 0xA) && (!slotSrc || sf == 0xA || sf == 0xB)

/-- RED (R121); R67 has DREG name an address register (log 10). -/
def legalRed (w : Nat) : Bool :=
  let op := insOp w
  let sf := fld w 96 93
  let src := fld w 103 97
  decide (op ≤ 4) && isZero w 70 64 && isZero w 56 32 && isVecOperand src &&
    (sf == 8 || sf == 9 || sf == 0xA || sf == 0xB) &&
    (sf != 0xB || bit src 6) && (!bit src 6 || sf == 0xA || sf == 0xB) &&
    (decide (2 ≤ op) || isZero w 109 104) &&
    isAreg (fld w 76 71) && (if isZero w 92 77 then isSreg (fld w 115 110) else isZero w 115 104)

/-- QNT (R137). -/
def legalQnt (w : Nat) : Bool :=
  let op := insOp w
  let a (u : Bool) (f : Nat) : Bool := if u then isAreg f else f == 0
  decide (op ≤ 3) && isZero w 83 0 && decide (fld w 85 84 ≤ 1) &&
    a true (fld w 115 110) && a (op == 1 || op == 2) (fld w 109 104) &&
    a (op == 1 || op == 2) (fld w 103 98) && a (op != 2) (fld w 97 92) && a true (fld w 91 86)

/-- COD (R186). -/
def legalCod (w : Nat) : Bool :=
  let op := insOp w
  let u := fld w 109 104
  decide (op ≤ 2) && isZero w 103 0 && isAreg (fld w 115 110) &&
    (if op = 2 then u == 0
     else decide (u ≤ if op = 0 then 1 else 3) || u == 0x10 || (decide (0x20 ≤ u) && decide (u ≤ 0x37)))

/-- SYN (R86). -/
def legalSyn (w : Nat) : Bool :=
  let op := insOp w
  let c := fld w 102 87
  if op = 3 then isZero w 113 0 && fld w 115 114 != 3
  else decide (op ≤ 2) && isZero w 79 0 && c != 0 && (op != 2 || decide (c ≤ 128)) &&
    (!bit w 86 || isZero w 115 103)

/-- The instruction word decodes: no reserved class, OP, field value or bit (R69). -/
def legal (w : Nat) : Bool :=
  match insClass w with
  | 0 => legalCtl w
  | 1 => legalSca w
  | 2 => legalMov w
  | 3 => legalStr w
  | 4 => legalMat w
  | 5 => legalVec w
  | 6 => legalRed w
  | 7 => legalQnt w
  | 8 => legalCod w
  | 9 => legalSyn w
  | _ => false

end Sys2Proof.Machine
end

