-- ==== Sys2Proof/Machine/Footprint.lean ====
section
/-! DEFINITION. What an instruction reads and writes: sizes, the quantiser descriptor, the operands of MAT, and the
footprints that the program-order interlock compares (R32, R47, R75, R114). -/

namespace Sys2Proof.Machine

/-! ## Sizes -/

/-- Bytes of n elements of a format. -/
def elemBytes (f n : Nat) : Nat := n * fmtWidth f / 8
where
  fmtWidth (f : Nat) : Nat := if f ≤ 3 then 4 else if f ≤ 7 then 8 else if f ≤ 9 then 16 else 32

/-- Rows of a block of a scale granularity code. -/
def granRows (g : Nat) : Nat := if g = 1 then 16 else if g = 2 then 32 else 64

/-- Bytes of a scale format (R103, R133). -/
def scaleBytes (f : Nat) : Nat := if f ≤ 1 then 1 else if f = 2 then 2 else 4

/-- Bytes of the block scales of one column or row of 64, 0 when there are none. -/
def scaleRun (gran fmt : Nat) : Nat := if gran = 0 then 0 else 64 / granRows gran * scaleBytes fmt

/-- Bytes of a Tile image (R102). -/
def imageBytes (wfmt sgran sfmt : Nat) : Nat :=
  roundUpTo (elemBytes wfmt 4096 + 64 * scaleRun sgran sfmt + (if wfmt = 3 then 16 else 0)) 16

/-- A Slot's mode takes a pair (R107). -/
def isWide (m : Nat) : Bool := m == 1 || m == 3

/-- Bytes of an output row of a drain: NV elements; RAW writes 4 B an entry, 8 B of a wide pair (R115). -/
def drainRowBytes (dfmt mode nv : Nat) : Nat :=
  if dfmt = 0xB then nv * (if isWide mode then 8 else 4) else elemBytes dfmt nv

/-! ## The quantiser descriptor (R135, R138, R139) -/

/-- The quantiser descriptor (R138). -/
structure QDesc where
  rows : Nat
  cols : Nat
  spitch : Nat
  dpitch : Nat
  ofmt : Nat
  ifmt : Nat
  mx : Bool
  zpf : Bool
  chax : Bool
  gran : Nat
  sfmt : Nat
  satf : Bool
  acc : Bool
  ssrc : Nat
  cb : List Nat
deriving DecidableEq, Repr

/-- The descriptor in 48 bytes. -/
def qDescOf (l : List Byte) : QDesc :=
  let n (o k : Nat) := leNat ((l.drop o).take k)
  { rows := n 0 4, cols := n 4 4, spitch := n 8 4, dpitch := n 12 4
    ofmt := fld (n 16 1) 7 4, ifmt := fld (n 16 1) 3 0
    mx := bit (n 17 1) 7, zpf := bit (n 17 1) 6, chax := bit (n 17 1) 5, gran := fld (n 17 1) 4 2
    sfmt := fld (n 17 1) 1 0
    satf := bit (n 18 1) 3, acc := bit (n 18 1) 2, ssrc := fld (n 18 1) 1 0
    cb := (List.range 16).map (fun i => n (32 + i) 1) }

/-- Elements of a block of a GRAN code. -/
def qBlock (g : Nat) : Nat := if g = 2 then 16 else if g = 3 then 32 else 64

/-- GRAN names blocks. -/
def qIsBlock (g : Nat) : Bool := decide (2 ≤ g) && decide (g ≤ 4)

/-- Bytes of a row of COLS elements, rounded up to 16 (R138). -/
def qRowBytes (f cols : Nat) : Nat := roundUpTo (elemBytes f cols) 16

/-- A pitch is a multiple of 16 and no smaller than the row. -/
def qPitchOk (p f cols : Nat) : Bool :=
  p % 16 == 0 && decide (qRowBytes f cols ≤ p) && (decide (4 ≤ f) || cols % 2 == 0)

/-- A wide format. -/
def isWideFmt (f : Nat) : Bool := f == 8 || f == 9 || f == 0xA

/-- The rules of R139 on the scale fields, for the code format of the instruction. -/
def qScaleOk (d : QDesc) (rnd cf : Nat) : Bool :=
  (!(cf == 1 || cf == 5) || d.zpf) && (!d.zpf || d.sfmt != 0) &&
    (!d.mx || (d.gran == 3 && d.sfmt == 0 && !d.zpf && (cf == 2 || cf == 4 || cf == 6 || cf == 7))) &&
    (cf != 3 || (!d.zpf && rnd == 0 && d.cb.all (fun c => c % 128 != 0x7F) && d.cb.any (fun c => c % 128 != 0)))

/-- The rules of R139 on groups. -/
def qGroupsOk (d : QDesc) : Bool :=
  decide (d.gran ≤ 4) &&
    (!qIsBlock d.gran ||
      (if d.chax then d.rows % qBlock d.gran == 0 && decide (d.cols ≤ 256) else d.cols % qBlock d.gran == 0))

/-- The descriptor keeps R138 and R139 for an OP. -/
def qDescOk (op rnd : Nat) (d : QDesc) : Bool :=
  match op with
  | 0 => isWideFmt d.ifmt && d.ofmt == 0 && !d.mx && !d.zpf && d.sfmt == 0 && d.ssrc == 0 && !d.satf &&
      qGroupsOk d && qPitchOk d.spitch d.ifmt d.cols
  | 1 => isWideFmt d.ifmt && decide (d.ofmt ≤ 7) && d.ssrc != 3 && qScaleOk d rnd d.ofmt && qGroupsOk d &&
      (d.ssrc != 0 || qIsBlock d.gran) && (d.ssrc != 1 || decide (d.gran ≤ 1)) &&
      qPitchOk d.spitch d.ifmt d.cols && qPitchOk d.dpitch d.ofmt d.cols
  | 2 => decide (d.ifmt ≤ 7) && isWideFmt d.ofmt && d.ssrc != 3 && qScaleOk d rnd d.ifmt && qGroupsOk d &&
      qPitchOk d.spitch d.ifmt d.cols && qPitchOk d.dpitch d.ofmt d.cols
  | _ => d.spitch == 0 && d.dpitch == 0 && d.ofmt == 0 && d.ifmt == 0 && !d.mx && !d.zpf && !d.chax &&
      d.gran == 0 && d.sfmt == 0 && !d.satf && d.ssrc == 0 && d.cb.all (· == 0)

/-! ## Groups (R135) -/

/-- The group of the element in row r and column c. -/
def qGroup (d : QDesc) (r c : Nat) : Nat :=
  if d.gran = 0 then 0
  else if d.gran = 1 then (if d.chax then c else r)
  else if d.chax then r / qBlock d.gran * d.cols + c
  else r * (d.cols / qBlock d.gran) + c / qBlock d.gran

/-- The number of groups. -/
def qGroups (d : QDesc) : Nat :=
  if d.gran = 0 then 1
  else if d.gran = 1 then (if d.chax then d.cols else d.rows)
  else d.rows * d.cols / qBlock d.gran

/-- Bytes of a scale record. -/
def scaleRecBytes (d : QDesc) : Nat := if d.zpf then 2 * scaleBytes d.sfmt else scaleBytes d.sfmt

/-! ## The operands of MAT instructions (R103, R111, R115) -/

/-- The TLOAD of a word. -/
def tloadOf (x : Eddy) (w : Nat) : TloadOp :=
  { pc := x.pc, todo := (setBits 8 (fld w 115 108)).zipIdx, begun := [], wfmt := fld w 107 104, fromFeed := bit w 103
    addr := (readReg x (fld w 102 97)).toNat, feed := fld w 96 95, kv := fld w 94 88, nv := fld w 87 81
    sgran := fld w 80 78, sfmt := fld w 77 76, csacc := bit w 75, got := [], gotPoison := false }

/-- The MMA of a word. -/
def mmaOf (x : Eddy) (w : Nat) : MmaOp :=
  let sr := (readReg x (fld w 58 53)).toNat
  { pc := x.pc, vanes := setBits 8 (fld w 115 108), afmt := fld w 107 104, addr := (readReg x (fld w 103 98)).toNat
    slot := fld w 97 85, mstr := fld w 84 72, vstr := fld w 71 59, pitch := fld sr 31 0, voff := fld sr 63 32
    asgran := fld w 52 50, asfmt := fld w 49 48, asaddr := (readReg x (fld w 47 42)).toNat
    rows := if bit w 41 then (readReg x (fld w 40 35)).toNat % 2 ^ 16 else fld w 15 0, next := 0 }

/-- The DRAIN or DRAINCLR of a word. -/
def drainOf (x : Eddy) (clear : Bool) (w : Nat) : DrainOp :=
  let dst := (readReg x (fld w 89 84)).toNat
  { pc := x.pc, clear := clear, slot := fld w 115 103, sstr := fld w 102 90
    rows := if bit w 41 then (readReg x (fld w 40 35)).toNat % 2 ^ 14 else fld w 13 0, next := 0
    toPort := bit w 83, addr := dst, pitch := fld (readReg x (fld w 63 58)).toNat 31 0, port := fld dst 5 0
    cls := fld dst 7 6, region := fld dst 19 8, off := fld dst 51 20, desc := (readReg x (fld w 82 77)).toNat
    dfmt := fld w 76 73, rnd := fld w 72 71, asv := bit w 64, asaddr := (readReg x (fld w 70 65)).toNat
    tail := [], tailPoison := false, grans := [] }

/-! ## Footprints of MAT instructions in flight (R75, R114) -/

/-- Rows of an MMA that have not entered. -/
def mmaRowsLeft (o : MmaOp) : List Nat := (List.range (o.rows - o.next)).map (· + o.next)

/-- The Lee address of a row for the Vane of a rank. -/
def mmaRowAddr (o : MmaOp) (m j : Nat) : Nat := o.addr + j * o.voff + m * o.pitch

/-- The Slot a row adds into for the Vane of a rank. -/
def mmaSlot (o : MmaOp) (m j : Nat) : Nat := o.slot + m * o.mstr + j * o.vstr

/-- Lee ranges that a row of an MMA reads. -/
def mmaRowReads (o : MmaOp) (m : Nat) : List (Nat × Nat) :=
  (List.range o.vanes.length).map (fun j => (mmaRowAddr o m j, elemBytes o.afmt 64)) ++
    (if o.asgran = 0 then [] else [(o.asaddr + m * scaleRun o.asgran o.asfmt, scaleRun o.asgran o.asfmt)])

/-- The Lee range of the image of a rank. -/
def imageRange (o : TloadOp) (rank : Nat) : Nat × Nat :=
  (o.addr + rank * imageBytes o.wfmt o.sgran o.sfmt, imageBytes o.wfmt o.sgran o.sfmt)

/-- Lee ranges (address, bytes) that a MAT instruction in flight has still to read. -/
def matReads : MatOp → List (Nat × Nat)
  | .tload o => if o.fromFeed then [] else o.todo.map (fun p => imageRange o p.2)
  | .mma o => (mmaRowsLeft o).flatMap (mmaRowReads o)
  | .drain o => (o.desc, 1296) :: (if o.asv then [(o.asaddr + 8 * o.next, 8 * (o.rows - o.next))] else [])
  | _ => []

/-- What a drain will find in a Slot: its mode, its NV once a product has been added, and for each Vane the NV of the
active and of the shadow Tile. -/
structure Ahead where
  act : List Nat
  sh : List Nat
  mode : Nat
  used : Bool
  nv : Nat
deriving DecidableEq, Repr

/-- A Slot and the Tiles as they are. -/
def aheadNow (x : Eddy) (i : Nat) : Ahead :=
  let vs := (List.range 8).map (getVane x)
  let t := getSlot x i
  { act := vs.map (fun y => (y.active.map (·.nv)).getD 0)
    sh := vs.map (fun y => match y.shadow with
      | .full u => u.nv
      | _ => 0)
    mode := t.mode, used := t.k != 0, nv := t.nv }

/-- The Slot and the Tiles after a MAT instruction in flight (R105, R106, R108, R109). -/
def aheadStep (i : Nat) (a : Ahead) : MatOp → Ahead
  | .tload o =>
    if o.wfmt = 0xA then { a with act := o.todo.foldl (fun l p => setAt l p.1 o.nv) a.act }
    else { a with sh := o.todo.foldl (fun l p => setAt l p.1 o.nv) a.sh }
  | .tswap _ vs => { a with act := vs.foldl (fun l v => setAt l v (a.sh.getD v 0)) a.act }
  | .mma o =>
    match o.vanes.zipIdx.find? (fun p => (mmaRowsLeft o).any (fun m => mmaSlot o m p.2 == i)) with
    | some p => if a.used then a else { a with used := true, nv := a.act.getD p.1 0 }
    | none => a
  | .drain o =>
    if o.clear && (List.range (o.rows - o.next)).any (fun k => o.slot + (o.next + k) * o.sstr == i) then
      { a with used := false, nv := 0 }
    else a
  | .sclr s n mode =>
    if decide (s ≤ i) && decide (i < s + n) then { a with mode := mode, used := false, nv := 0 } else a
  | .csave _ _ _ => a

/-- The bytes of the row that a drain will write from a Slot behind other MAT instructions. -/
def drainRowAhead (x : Eddy) (before : List (Nat × MatOp)) (dfmt i : Nat) : Nat :=
  let a := before.foldl (fun a p => aheadStep i a p.2) (aheadNow x i)
  drainRowBytes dfmt a.mode a.nv

/-- Lee ranges that a MAT instruction in flight behind others has still to write. -/
def matWrites (x : Eddy) (before : List (Nat × MatOp)) : MatOp → List (Nat × Nat)
  | .drain o =>
    if o.toPort then []
    else (List.range (o.rows - o.next)).map (fun i =>
      (o.addr + (o.next + i) * o.pitch, drainRowAhead x before o.dfmt (o.slot + (o.next + i) * o.sstr)))
  | .csave _ _ a => [(a, 512)]
  | _ => []

/-- Slots that a MAT instruction in flight has still to read or write. -/
def matSlots : MatOp → List Nat
  | .mma o => (mmaRowsLeft o).flatMap (fun m => (List.range o.vanes.length).map (mmaSlot o m))
  | .drain o => (List.range (o.rows - o.next)).map (fun i => o.slot + (o.next + i) * o.sstr)
  | .sclr s n _ => (List.range n).map (· + s)
  | _ => []

/-- Slots that a MAT instruction in flight has still to change. -/
def matSlotWrites : MatOp → List Nat
  | .drain o => if o.clear then matSlots (.drain o) else []
  | o => matSlots o

/-- Two ranges share a granule. -/
def overlaps (p q : Nat × Nat) : Bool :=
  p.2 != 0 && q.2 != 0 && decide (p.1 / 16 ≤ (q.1 + q.2 - 1) / 16) && decide (q.1 / 16 ≤ (p.1 + p.2 - 1) / 16)

/-- Accesses that must keep their order meet: a read with a write, or two writes, of one granule. -/
def rangesMeet (reads writes reads' writes' : List (Nat × Nat)) : Bool :=
  writes'.any (fun q => reads.any (overlaps q) || writes.any (overlaps q)) ||
    reads'.any (fun q => writes.any (overlaps q))

/-- The Slot, and its partner when its mode is wide. -/
def slotAndPair (x : Eddy) (i : Nat) : List Nat := if isWide (getSlot x i).mode then [i, i + 1] else [i]

/-- A read (or write) of ranges must wait for the given MAT instructions in flight (R47, R75). -/
def leeClash (x : Eddy) (ops : List (Nat × MatOp)) (reads writes : List (Nat × Nat)) : Bool :=
  ops.zipIdx.any (fun p => rangesMeet reads writes (matReads p.1.2) (matWrites x (ops.take p.2) p.1.2))

/-- A read (or write) of Slots must wait for MAT instructions in flight (R75, R92, R114). -/
def slotClash (x : Eddy) (reads writes : List Nat) : Bool :=
  x.matOps.any (fun p =>
    (matSlotWrites p.2).any (fun i => (slotAndPair x i).any (fun k => reads.contains k || writes.contains k)) ||
      (matSlots p.2).any (fun i => (slotAndPair x i).any (fun k => writes.contains k)))

/-- A Task's arm that has landed on the ARMWORD of a Region and is still to be checked. -/
def armOf (e before : Nat) (r : ArmReq) : Bool :=
  match r.src with
  | .eddy k n => k == e && decide (n < before)
  | .host _ => false

/-- A read (or write) of ranges must wait for the Task's other units (R75): an arm that the bank has still to check writes
the reduction header, and a FURL or UNFURL that no unit has accepted reads its descriptor and clears DONE (R187). -/
def unitClash (b : Block) (e : Nat) (reads writes : List (Nat × Nat)) : Bool :=
  b.lee.regions.any (fun p =>
    p.2.armReqs.any (armOf e (getEddy b e).matSeq) && rangesMeet reads writes [] [(regionAddr p.2, 64)]) ||
  b.codOffers.any (fun o => match o.origin with
    | .eddy k _ => k == e && rangesMeet reads writes [(o.desc, 64)] [(o.desc + 64, 16)]
    | .host _ => false)

/-! ## What an instruction that is about to issue would read and write -/

/-- The Lee and Slot accesses of an instruction. -/
structure Foot where
  reads : List (Nat × Nat) := []
  writes : List (Nat × Nat) := []
  slotReads : List Nat := []
  slotWrites : List Nat := []
deriving DecidableEq, Repr

/-- The address sum of LDS and STS, modulo 2^48 (R83). -/
def scaAddr (x : Eddy) (w : Nat) : Nat := ((readReg x (fld w 109 104)).toNat + fld w 63 0) % 2 ^ 48

/-- The count of MOV (R84). -/
def movCount (x : Eddy) (w : Nat) : Nat :=
  if bit w 97 then (readReg x (fld w 103 98)).toNat else fld w 12 0

/-- The element count of VEC and RED, whatever the poison of its register. -/
def elemCount (x : Eddy) (w : Nat) : Nat :=
  if bit w 57 then (readReg x (fld w 63 58)).toNat % 2 ^ 32 else fld w 31 0

/-- A VEC or RED operand of n elements: a Lee range, or Slots. -/
def operandFoot (x : Eddy) (f fmt n : Nat) : List (Nat × Nat) × List Nat :=
  if bit f 6 then
    ([], (List.range ((n + 63) / 64)).map (fun i => (readReg x (f % 64)).toNat % 2 ^ 13 + i))
  else ([((readReg x (f % 64)).toNat, elemBytes fmt n)], [])

/-- The footprint of VEC (R91). -/
def footVec (x : Eddy) (w : Nat) : Foot :=
  let n := elemCount x w
  let k := vecSources (insOp w)
  let a := operandFoot x (fld w 108 102) (fld w 83 80) n
  let b := if 2 ≤ k then operandFoot x (fld w 101 95) (fld w 83 80) n else ([], [])
  let c := if 3 ≤ k then operandFoot x (fld w 94 88) (fld w 83 80) n else ([], [])
  let d := operandFoot x (fld w 115 109) (fld w 87 84) n
  { reads := a.1 ++ b.1 ++ c.1, writes := d.1, slotReads := a.2 ++ b.2 ++ c.2, slotWrites := d.2 }

/-- The footprint of RED (R121). -/
def footRed (x : Eddy) (w : Nat) : Foot :=
  let n := elemCount x w
  let a := operandFoot x (fld w 103 97) (fld w 96 93) n
  let g := fld w 92 77
  { reads := a.1, slotReads := a.2
    writes := if g = 0 then [] else [((readReg x (fld w 76 71)).toNat, 8 * (n / g))] }

/-- Rows of bytes at a pitch. -/
def rowRanges (a pitch bytes rows : Nat) : List (Nat × Nat) := (List.range rows).map (fun r => (a + r * pitch, bytes))

/-- The footprint of QNT by its descriptor, which is read without effect; one that its rules refuse, or that names no
element, ends the footprint (R137 to R141). -/
def footQnt (b : Block) (x : Eddy) (w : Nat) : Foot :=
  let r (hi lo : Nat) := (readReg x (fld w hi lo)).toNat
  let at_ := r 91 86
  let d := qDescOf ((List.range 48).map (fun i => Table.get 0 b.lee.mem (at_ + i)))
  let op := insOp w
  let src := rowRanges (r 115 110) d.spitch (elemBytes d.ifmt d.cols) d.rows
  let dst := rowRanges (r 109 104) d.dpitch (elemBytes d.ofmt d.cols) d.rows
  let scales := (r 103 98, qGroups d * scaleRecBytes d)
  if !qDescOk op (fld w 85 84) d || d.rows == 0 || d.cols == 0 then { reads := [(at_, 48)] }
  else match op with
    | 0 => { reads := (at_, 48) :: src ++ (if d.acc then [(r 97 92, 16 * qGroups d)] else [])
             writes := [(r 97 92, 16 * qGroups d)] }
    | 1 => { reads := (at_, 48) :: src ++ (if d.ssrc = 2 then [scales] else []) ++
               (if d.ssrc = 1 then [(r 97 92, 16 * qGroups d)] else [])
             writes := dst ++ (if d.ssrc = 2 then [] else [scales]) }
    | 2 => { reads := (at_, 48) :: scales :: src, writes := dst }
    | _ => { reads := [(at_, 48), (r 115 110, 16 * d.rows * d.cols)] ++ (if d.acc then [(r 97 92, 16 * d.cols)] else [])
             writes := [(r 97 92, 16 * d.cols)] }

/-- The Lee footprint of MAT. -/
def footMat (x : Eddy) (w : Nat) : Foot :=
  let of_ (o : MatOp) : Foot := { reads := matReads o, writes := matWrites x x.matOps o }
  match insOp w with
  | 1 => of_ (.tload (tloadOf x w))
  | 3 => of_ (.mma (mmaOf x w))
  | 4 => of_ (.drain (drainOf x false w))
  | 5 => of_ (.drain (drainOf x true w))
  | 6 => of_ (.csave x.pc (fld w 115 113) (readReg x (fld w 112 107)).toNat)
  | _ => {}

/-- The footprint of an instruction. The Slots of MAT are ordered by the effect points of its unit instead (R114). -/
def footOf (b : Block) (x : Eddy) (w : Nat) : Foot :=
  match insClass w with
  | 1 =>
    if insOp w = 0xE then { reads := [(scaAddr x w, 8)] }
    else if insOp w = 0xF then { writes := [(scaAddr x w, 8)] }
    else {}
  | 2 =>
    { reads := [((readReg x (fld w 109 104)).toNat, 16 * movCount x w)]
      writes := [((readReg x (fld w 115 110)).toNat, 16 * movCount x w)] }
  | 3 => if insOp w ≤ 1 then { reads := [((readReg x (fld w 109 104)).toNat, 64)] } else {}
  | 4 => footMat x w
  | 5 => footVec x w
  | 6 => footRed x w
  | 7 => footQnt b x w
  | 8 =>
    let a := (readReg x (fld w 115 110)).toNat
    if insOp w ≤ 1 then { reads := [(a, 64)], writes := [(a + 64, 16)] } else { reads := [(a + 64, 16)] }
  | _ => {}

end Sys2Proof.Machine
end

