-- ==== Sys2Proof/Machine/Issue.lean ====
section
/-! DEFINITION. Issue of an instruction by an Eddy: fetch, decode, predicate, the interlocks that hold it, and what
follows its effect: the next index, back-edges and taken branches (R68, R69, R72 to R75, R78, R79, R94). -/

namespace Sys2Proof.Machine

/-! ## Units and Gates -/

/-- The queue of a class (R74). -/
def queueOf (x : Eddy) (c : Nat) : List QEntry := Table.get [] x.queues c

/-- The queue of a class replaced. -/
def setQueue (x : Eddy) (c : Nat) (q : List QEntry) : Eddy := { x with queues := Table.put [] x.queues c q }

/-- An entry put at the end of the queue of a class. -/
def pushQueue (x : Eddy) (c : Nat) (q : QEntry) : Eddy := setQueue x c (queueOf x c ++ [q])

/-- A class whose instructions go to a unit queue. -/
def isUnitClass (c : Nat) : Bool := decide (3 ≤ c) && decide (c ≤ 8)

/-- A MAT instruction with a Lee access still to come. -/
def hasLeeAccess : MatOp → Bool
  | .drain _ => true
  | .csave _ _ _ => true
  | o => !(matReads o).isEmpty

/-- The unit has taken up the MAT instruction of a place (R74). -/
def takenUp (x : Eddy) (n : Nat) : Bool := !(queueOf x 4).any (fun q => q == .mma n || q == .mat n)

/-- The Task has sent fabric messages that have not left the block (R52). -/
def taskFlits (b : Block) (e : Nat) : Bool :=
  b.ports.any (fun p => p.2.tx.any (fun q => q.2.any (fun m => m.owner == .drain e)))

/-- Every Lee access of the Task before a place is visible: those of MAT, and the arms of its STS. -/
def accessesMet (b : Block) (e before : Nat) : Bool :=
  !(getEddy b e).matOps.any (fun p => decide (p.1 < before) && hasLeeAccess p.2) &&
    !b.lee.regions.any (fun p => p.2.armReqs.any (armOf e before))

/-- Every Lee access that the Task has issued is visible and, at BLOCK scope, its fabric flits have left (R52). -/
def fenceMet (b : Block) (e scope : Nat) : Bool :=
  let x := getEddy b e
  accessesMet b e x.matSeq &&
    (scope != 2 || (!x.matOps.any (fun p => match p.2 with
      | .drain o => o.toPort
      | _ => false) && !taskFlits b e))

/-- Everything that HALT waits for (R80): earlier instructions complete, and a BLOCK fence met. -/
def haltMet (b : Block) (e : Nat) : Bool :=
  let x := getEddy b e
  x.matOps.isEmpty && x.queues.isEmpty && !b.gateMsgs.any (fun m => m.eddy == e) && fenceMet b e 2

/-- The interlocks let the instruction issue: a full queue, the program-order and drain interlocks, and the wait of
HALT (R74, R75, R80, R92). -/
def mayIssue (b : Block) (e w : Nat) : Bool :=
  let x := getEddy b e
  let f := footOf b x w
  (!isUnitClass (insClass w) || decide ((queueOf x (insClass w)).length < 8)) &&
    (insClass w == 4 || !leeClash x x.matOps f.reads f.writes) && !slotClash x f.slotReads f.slotWrites &&
    !unitClash b e f.reads f.writes &&
    (!(insClass w == 0 && insOp w == 6) || haltMet b e)

/-! ## Fetch (R94) -/

/-- The HALT word that fills instruction memory (R93). -/
def haltWord : Granule := 0x06000000000000000000000000000000#128

/-- The instruction at an index: the word, or nothing when it is uncorrectable; a correction is counted. -/
def fetch (x : Eddy) (i : Nat) : Option Nat × Eddy :=
  let d := Table.get haltWord x.imem i
  match Table.find x.imemErr i with
  | none => (some d.toNat, x)
  | some pat =>
    match decodeGranule (encodeGranule d false ^^^ pat) with
    | (d', .clean) => (some d'.toNat, x)
    | (d', .corrected) =>
      (some d'.toNat, { x with imem := Table.put haltWord x.imem i d'
                               imemErr := Table.erase x.imemErr i
                               imemCorr := satAdd 16 x.imemCorr 1 })
    | _ => (none, x)

/-! ## Where issue continues (R78, R79) -/

/-- The back-edges at an index, innermost loop first: the loops left, the counters, and the index that follows. -/
def backEdge (x : Eddy) (i : Nat) : List Loop → Eddy
  | [] => { x with loops := [], pc := i + 1 }
  | l :: r =>
    if l.last = i then
      if 1 < (readReg x (0x30 + l.lc)).toNat then
        { writeReg x (0x30 + l.lc) (readReg x (0x30 + l.lc) - 1) (regPoison x (0x30 + l.lc)) with
          loops := l :: r, pc := l.first }
      else backEdge (writeReg x (0x30 + l.lc) 0 false) i r
    else { x with loops := l :: r, pc := i + 1 }

/-- The loops that a transfer of control to an index ends: every loop it leaves, and every loop inside one it leaves. -/
def loopsKept (t : Nat) (l : List Loop) : List Loop :=
  (l.reverse.takeWhile (fun k => decide (k.first ≤ t) && decide (t ≤ k.last))).reverse

/-- The counters of ended loops read 0. -/
def endLoops (x : Eddy) : List Loop → Eddy
  | [] => x
  | l :: r => endLoops (writeReg x (0x30 + l.lc) 0 false) r

/-- A transfer of control to an index (R73, R79). -/
def jumpTo (x : Eddy) (t : Nat) : Eddy :=
  let keep := loopsKept t x.loops
  { endLoops x (x.loops.take (x.loops.length - keep.length)) with loops := keep, pc := t }

/-- Where issue continues after an instruction. -/
inductive Flow where
  /-- At the next index, by any back-edge. -/
  | next
  /-- At the target of a taken branch, CALL or RET. -/
  | jump (t : Nat)
  /-- Into the body of a loop that has just started. -/
  | body
  /-- Past the body of a loop with a count of 0, as if the instruction at END had issued. -/
  | skip (last : Nat)
  /-- A fault after a read of Lee whose counts and events stand (R233, R338). -/
  | fault (code : Nat)
deriving DecidableEq, Repr

/-- Adding to the Task's cycle counter. -/
def addCycles (x : Eddy) (n : Nat) : Eddy := { x with cycles := x.cycles + BitVec.ofNat 64 n }

/-- A single step of the debug port ends with the instruction that issued. -/
def stepDone (x : Eddy) : Eddy := if x.dapStep then { x with dapHalt := true, dapStep := false } else x

/-- The index and loops after an instruction, and its issue cost in the cycle counter (R72, R73). -/
def continueAt (x : Eddy) (f : Flow) : Eddy :=
  stepDone <| match f with
  | .next => addCycles (backEdge x x.pc x.loops) 1
  | .jump t => addCycles (jumpTo x t) 12
  | .body => addCycles { x with pc := x.pc + 1 } 1
  | .skip last => addCycles (backEdge x last x.loops) 12
  | .fault _ => x

/-! ## Issue -/

/-- The Eddy's sequencer can issue: its Task runs, its Current is usable and out of Hold and power-on, it waits on
nothing, the debug port does not hold it, and its job is not being stopped. -/
def canIssue (b : Block) (e : Nat) : Bool :=
  let x := getEddy b e
  x.run == .running && x.wait == .none && !x.dapHalt && b.job.stop.isNone && curUsable b (e / 16) &&
    !b.power.hold && (Table.get [] b.power.vaneQ (e / 16)).isEmpty

/-- What an instruction does when it takes effect: the block and where issue continues, or a status code. -/
abbrev Body := Block → Nat → Nat → Except Nat (Block × Flow)

/-- Eddy e issues the instruction at its index, when that is the given class and OP. A word that does not decode, cannot
be read, or stands past the end raises its fault whatever was expected (R68, R69, R94, R97). -/
def issue (cls op : Nat) (body : Body) (e : Nat) (b : Block) : Block :=
  if !canIssue b e then b
  else
    let x := getEddy b e
    if 16383 < x.pc then taskFault b e x.pc 0x381
    else
      match fetch x x.pc with
      | (none, _) => taskFault b e x.pc 0x388
      | (some w, x') =>
        let b' := if (Table.find x.imemErr x.pc).isNone then b else putEddy b e x'
        if !legal w then taskFault b' e x.pc 0x380
        else if insClass w != cls || insOp w != op then b
        else if predPoison x' (insPred w) then taskFault b' e x.pc 0x38B
        else if !predHolds x' (insPred w) then putEddy b' e (continueAt x' .next)
        else if !mayIssue b' e w then b
        else
          match body b' e w with
          | .error c => taskFault b' e x.pc c
          | .ok (b'', .fault c) => taskFault b'' e x.pc c
          | .ok (b'', f) => updEddy b'' e (fun y => continueAt y f)

end Sys2Proof.Machine
end

