-- ==== Sys2Proof/Machine/Numerics.lean ====
section
/-! DEFINITION. Numbers, element formats and rounding (05_numerics). -/

namespace Sys2Proof.Machine

/-- A number: NaN, an infinity, or the finite value n/d with a sign (zero has a sign). -/
inductive Value where
  | nan
  | inf (neg : Bool)
  | fin (neg : Bool) (n d : Nat)
deriving DecidableEq, Repr

/-- n · 2^x. -/
def Value.scaled (neg : Bool) (n : Nat) (x : Int) : Value :=
  match x with
  | .ofNat k => .fin neg (n * 2 ^ k) 1
  | .negSucc k => .fin neg n (2 ^ (k + 1))

/-- An integer. -/
def Value.ofInt (x : Int) : Value := .fin (decide (x < 0)) x.natAbs 1

/-- Positive zero. -/
def Value.zero : Value := .fin false 0 1

def Value.isNan : Value → Bool
  | .nan => true
  | _ => false

def Value.isFin : Value → Bool
  | .fin _ _ _ => true
  | _ => false

def Value.isZero : Value → Bool
  | .fin _ n _ => n == 0
  | _ => false

def Value.neg : Value → Value
  | .nan => .nan
  | .inf s => .inf (!s)
  | .fin s n d => .fin (!s) n d

def Value.abs : Value → Value
  | .nan => .nan
  | .inf _ => .inf false
  | .fin _ n d => .fin false n d

/-- A common multiple of two denominators, the larger when one divides the other. -/
def commonDen (d e : Nat) : Nat := if e % d = 0 then e else if d % e = 0 then d else d * e

/-- The exact sum, with the signed zeros of IEEE 754 to nearest even. -/
def Value.add : Value → Value → Value
  | .nan, _ => .nan
  | _, .nan => .nan
  | .inf s, .inf t => if s = t then .inf s else .nan
  | .inf s, .fin _ _ _ => .inf s
  | .fin _ _ _, .inf t => .inf t
  | .fin s n d, .fin t m e =>
    let c := commonDen d e
    let a := n * (c / d)
    let b := m * (c / e)
    if s = t then .fin s (a + b) c
    else if a = b then .fin false 0 c
    else if b < a then .fin s (a - b) c
    else .fin t (b - a) c

def Value.sub (x y : Value) : Value := Value.add x y.neg

/-- The exact product. -/
def Value.mul : Value → Value → Value
  | .nan, _ => .nan
  | _, .nan => .nan
  | .inf s, .inf t => .inf (s != t)
  | .inf s, .fin t m _ => if m = 0 then .nan else .inf (s != t)
  | .fin s n _, .inf t => if n = 0 then .nan else .inf (s != t)
  | .fin s n d, .fin t m e => .fin (s != t) (n * m) (d * e)

/-- The exact quotient. -/
def Value.div : Value → Value → Value
  | .nan, _ => .nan
  | _, .nan => .nan
  | .inf _, .inf _ => .nan
  | .inf s, .fin t _ _ => .inf (s != t)
  | .fin s _ _, .inf t => .fin (s != t) 0 1
  | .fin s n d, .fin t m e =>
    if m = 0 then (if n = 0 then .nan else .inf (s != t)) else .fin (s != t) (n * e) (d * m)

/-- Strictly less, for numbers that are not NaN; the zeros are equal. -/
def Value.lt : Value → Value → Bool
  | .nan, _ => false
  | _, .nan => false
  | .inf s, .inf t => s && !t
  | .inf s, .fin _ _ _ => s
  | .fin _ _ _, .inf t => !t
  | .fin s n d, .fin t m e =>
    let a : Int := if s then -((n * e : Nat) : Int) else ((n * e : Nat) : Int)
    let b : Int := if t then -((m * d : Nat) : Int) else ((m * d : Nat) : Int)
    decide (a < b)

/-- Equal values (the zeros are equal, NaN equals nothing). -/
def Value.eqv (x y : Value) : Bool := !x.isNan && !y.isNan && !Value.lt x y && !Value.lt y x

/-- The sign of a number. -/
def Value.sign : Value → Bool
  | .nan => false
  | .inf s => s
  | .fin s _ _ => s

/-! ## Element formats (R129) -/

/-- Width in bits of a format. -/
def fmtBits (f : Nat) : Nat :=
  if f ≤ 3 then 4 else if f ≤ 7 then 8 else if f ≤ 9 then 16 else 32

/-- Mantissa bits of an FP format. -/
def fpMant (f : Nat) : Nat :=
  match f with
  | 2 => 1
  | 6 => 3
  | 7 => 2
  | 8 => 7
  | 9 => 10
  | _ => 23

/-- Exponent bits of an FP format. -/
def fpExp (f : Nat) : Nat :=
  match f with
  | 2 => 2
  | 6 => 4
  | 7 => 5
  | 8 => 8
  | 9 => 5
  | _ => 8

/-- The exponent bias of an FP format. -/
def fpBias (f : Nat) : Nat := 2 ^ (fpExp f - 1) - 1

/-- The format has infinities. -/
def fpHasInf (f : Nat) : Bool := f == 7 || f == 8 || f == 9 || f == 10

/-- The code of the largest finite magnitude. -/
def fpMaxCode (f : Nat) : Nat :=
  match f with
  | 2 => 7
  | 6 => 0x7E
  | 7 => 0x7B
  | 8 => 0x7F7F
  | 9 => 0x7BFF
  | _ => 0x7F7FFFFF

/-- The canonical NaN (R131); 0 for FP4, which has none. -/
def fpNan (f : Nat) : Nat :=
  match f with
  | 2 => 0
  | 6 => 0x7F
  | 7 => 0x7E
  | 8 => 0x7FC0
  | 9 => 0x7E00
  | _ => 0x7FC00000

/-- The exponent of the smallest subnormal. -/
def fpQmin (f : Nat) : Int := 1 - (fpBias f : Int) - (fpMant f : Int)

/-- The number an FP code stands for. -/
def fpDecode (f c : Nat) : Value :=
  let mb := fpMant f
  let eb := fpExp f
  let s := bit c (mb + eb)
  let e := fld c (mb + eb - 1) mb
  let m := c % 2 ^ mb
  if fpHasInf f && e == 2 ^ eb - 1 then (if m = 0 then .inf s else .nan)
  else if f == 6 && e == 15 && m == 7 then .nan
  else if e = 0 then Value.scaled s m (fpQmin f)
  else Value.scaled s (2 ^ mb + m) (fpQmin f + (e : Int) - 1)

/-- The floor of log2 of n/d, for n > 0. -/
def floorLog (n d : Nat) : Int :=
  let l : Int := (Nat.log2 n : Int) - (Nat.log2 d : Int)
  let ge := match l with
    | .ofNat k => decide (d * 2 ^ k ≤ n)
    | .negSucc k => decide (d ≤ n * 2 ^ (k + 1))
  if ge then l else l - 1

/-- How a result is rounded: to nearest even, or stochastically with a 16-bit draw (R147, R148). -/
inductive Rnd where
  | near
  | stoch (draw : Nat)
deriving DecidableEq, Repr

/-- Whether the magnitude k + r/den (r < den) of the given sign rounds up to k + 1. -/
def roundsUp (rnd : Rnd) (neg : Bool) (k r den : Nat) : Bool :=
  if r = 0 then false
  else match rnd with
    | .near => decide (den < 2 * r) || (decide (2 * r = den) && k % 2 == 1)
    | .stoch draw =>
      if neg then !decide (draw < 2 ^ 16 * (den - r) / den) else decide (draw < 2 ^ 16 * r / den)

/-- The magnitude n/d in units of 2^q: numerator and denominator. -/
def inUnits (n d : Nat) (q : Int) : Nat × Nat :=
  match q with
  | .ofNat k => (n, d * 2 ^ k)
  | .negSucc k => (n * 2 ^ (k + 1), d)

/-- The rounded code of a non-zero magnitude, as if the exponent range had no end. -/
def roundMag (f : Nat) (rnd : Rnd) (neg : Bool) (n d : Nat) : Nat :=
  let q := max (floorLog n d - (fpMant f : Int)) (fpQmin f)
  let u := inUnits n d q
  let k := u.1 / u.2
  let up := roundsUp rnd neg k (u.1 % u.2) u.2
  (q - fpQmin f).toNat * 2 ^ fpMant f + k + b2n up

/-- A converted element: its code, and whether it counts as a saturation or as a NaN or Inf conversion (R132). -/
structure Conv where
  code : Nat
  sat : Bool := false
  nanc : Bool := false
deriving DecidableEq, Repr

/-- The code of an infinity or of the largest finite value, with a sign. -/
def fpInf (f : Nat) (s : Bool) : Nat :=
  b2n s * 2 ^ (fpMant f + fpExp f) + (2 ^ fpExp f - 1) * 2 ^ fpMant f

def fpMax (f : Nat) (s : Bool) : Nat := b2n s * 2 ^ (fpMant f + fpExp f) + fpMaxCode f

/-- Whether the magnitude n/d overflows the format (R132). -/
def fpOverflows (f : Nat) (rnd : Rnd) (n d : Nat) : Bool :=
  match fpDecode f (fpMaxCode f) with
  | .fin _ mn md =>
    match rnd with
    | .stoch _ => decide (mn * d < n * md)
    | .near =>
      let h := Value.add (.fin false mn md)
        (Value.scaled false 1 (fpQmin f + (fpMaxCode f / 2 ^ fpMant f : Nat) - 2))
      !Value.lt (.fin false n d) h
  | _ => false

/-- The conversion of a number into an FP format (R131, R132, R147, R148). -/
def fpConvert (f : Nat) (rnd : Rnd) (satf : Bool) (x : Value) : Conv :=
  match x with
  | .nan => ⟨fpNan f, false, f == 2⟩
  | .inf s => if fpHasInf f then ⟨fpInf f s, false, false⟩ else ⟨fpMax f s, false, true⟩
  | .fin s n d =>
    let sg := b2n s * 2 ^ (fpMant f + fpExp f)
    if n = 0 then ⟨sg, false, false⟩
    else if fpOverflows f rnd n d then
      (if fpHasInf f && !satf then ⟨fpInf f s, false, false⟩ else ⟨fpMax f s, true, false⟩)
    else ⟨sg + roundMag f rnd s n d, false, false⟩

/-- Rounded once to FP32, to nearest even. -/
def toF32 (x : Value) : Word := BitVec.ofNat 32 (fpConvert 10 .near false x).code

/-- The number in an FP32 word. -/
def ofF32 (w : Word) : Value := fpDecode 10 w.toNat

/-- A finite number rounded to an integer. -/
def roundInt (rnd : Rnd) (x : Value) : Int :=
  match x with
  | .fin s n d =>
    let k := n / d
    let m := k + b2n (roundsUp rnd s k (n % d) d)
    if s then -(m : Int) else (m : Int)
  | _ => 0

/-- The number a code of any format stands for; cb is the codebook of CB4. -/
def elemValue (f : Nat) (cb : List Nat) (c : Nat) : Value :=
  match f with
  | 0 => .ofInt (signed 4 c)
  | 1 => .ofInt (c : Int)
  | 3 => fpDecode 6 (cb.getD c 0)
  | 4 => .ofInt (signed 8 c)
  | 5 => .ofInt (c : Int)
  | 11 => .ofInt (signed 32 c)
  | _ => fpDecode f c

/-! ## Functions of the vector unit (R92, R131) -/

/-- The integer square root by binary digits: fuel digits, from the top. -/
def isqrtGo : Nat → Nat → Nat → Nat
  | 0, _, r => r
  | k + 1, x, r => if (r + 2 ^ k) * (r + 2 ^ k) ≤ x then isqrtGo k x (r + 2 ^ k) else isqrtGo k x r

/-- The integer square root of a number below 2^1024. -/
def isqrt (x : Nat) : Nat := isqrtGo (Nat.log2 x / 2 + 1) x 0

/-- ln 2 times 2^160. -/
def ln2Fixed : Nat := 1013035739299659071135698605846798551586536899366

/-- The sum of x^i/i! from term i, in units of 2^-160. -/
def expSeries : Nat → Nat → Nat → Nat → Nat
  | 0, _, _, _ => 0
  | k + 1, x, i, t => t + expSeries k x (i + 1) (t * x / 2 ^ 160 / i)

/-- 2^f for a fraction f in units of 2^-160. -/
def exp2Frac (f : Nat) : Nat := if f = 0 then 2 ^ 160 else expSeries 60 (f * ln2Fixed / 2 ^ 160) 1 (2 ^ 160)

/-- 2 to a finite power, to about 2^-150. -/
def exp2Num (s : Bool) (n d : Nat) : Value :=
  if 512 * d ≤ n then (if s then .fin false 1 (2 ^ 512) else .fin false (2 ^ 512) 1)
  else
    let k := n / d
    let r := n % d
    let i : Int := if s then -((k : Int) + (if r = 0 then 0 else 1)) else (k : Int)
    let fr := if r = 0 then 0 else if s then (d - r) * 2 ^ 160 / d else r * 2 ^ 160 / d
    Value.scaled false (exp2Frac fr) (i - 160)

/-- Binary digits of log2 of a mantissa in units of 2^-160, from 1 up to 2. -/
def logDigits : Nat → Nat → Nat → Nat
  | 0, _, acc => acc
  | k + 1, m, acc =>
    let q := m * m / 2 ^ 160
    if 2 ^ 161 ≤ q then logDigits k (q / 2) (2 * acc + 1) else logDigits k q (2 * acc)

/-- log2 of n/d > 0, to about 2^-110. -/
def log2Num (n d : Nat) : Value :=
  let l := floorLog n d
  let u := inUnits n d l
  let v : Int := l * ((2 ^ 110 : Nat) : Int) + (logDigits 110 (u.1 * 2 ^ 160 / u.2) 0 : Nat)
  .fin (decide (v < 0)) v.natAbs (2 ^ 110)

/-- The result of a vector function, by OP 0x9 to 0xD: special operands as IEEE 754 gives them, others to far more
precision than FP32. -/
def vecFunction (op : Nat) (x : Value) : Value :=
  match op, x with
  | _, .nan => .nan
  | 9, y => Value.div (.fin false 1 1) y
  | 10, .inf s => if s then .nan else .fin false 0 1
  | 10, .fin s n d =>
    if n = 0 then .inf s else if s then .nan else .fin false (isqrt (n * d * 2 ^ 256)) (n * 2 ^ 128)
  | 11, .inf s => if s then .nan else .inf false
  | 11, .fin s n d =>
    if n = 0 then .fin s 0 1 else if s then .nan else .fin false (isqrt (n * d * 2 ^ 256)) (d * 2 ^ 128)
  | 12, .inf s => if s then .fin false 0 1 else .inf false
  | 12, .fin s n d => exp2Num s n d
  | _, .inf s => if s then .nan else .inf false
  | _, .fin s n d => if n = 0 then .inf true else if s then .nan else log2Num n d

/-- One unit in the last place of FP32 at a finite magnitude. -/
def ulp32 (n d : Nat) : Value :=
  Value.scaled false 1 (if n = 0 then fpQmin 10 else max (floorLog n d - 23) (fpQmin 10))

/-- The FP32 result of a vector function: exact for a zero operand (R131); else the proposed one when it surely lies within
two units in the last place (by 2^-30 of a unit less than two of the approximation), else the correctly rounded one (log
13). -/
def vecApprox (op : Nat) (a : Word) : Word :=
  let y := vecFunction op (ofF32 a)
  let c := Config.vecApprox op a
  match y, ofF32 c with
  | .fin s n d, .fin t m e =>
    if n = 0 || (ofF32 a).isZero || fpOverflows 10 .near n d then toF32 y
    else
      let lim := Value.mul (ulp32 n d) (.fin false (2 ^ 31 - 1) (2 ^ 30))
      if Value.lt lim (Value.abs (Value.sub (.fin s n d) (.fin t m e))) then toF32 y else c
  | _, _ => toF32 y

/-! ## Sums -/

/-- The pairwise sum of n values in the fixed order of R122, each sum rounded to FP32; fuel is the number of values left. -/
def pairwiseSteps (n : Nat) : Nat → List Value → Value
  | 0, _ => .zero
  | _, [] => .zero
  | _, [x] => x
  | f + 1, x :: y :: r =>
    let l := x :: y :: r
    let i := Config.pairPick n (2 * l.length) % l.length
    let a := l.getD i .zero
    let l' := dropAt l i
    let j := Config.pairPick n (2 * l.length + 1) % l'.length
    let b := l'.getD j .zero
    pairwiseSteps n f (ofF32 (toF32 (Value.add a b)) :: dropAt l' j)

/-- The pairwise sum of a list (R122). -/
def pairwiseSum (l : List Value) : Value := pairwiseSteps l.length l.length l

/-- The leaves in the order in which the adder tree pairs them; a row of padding leaves nothing at its place (R65). -/
def treeOrder : Nat → List (Option Value) → List (Option Value)
  | 0, l => l
  | _, [] => []
  | f + 1, x :: r =>
    let l := x :: r
    let i := Config.treePick l.length % l.length
    l.getD i none :: treeOrder f (dropAt l i)

/-- A node of the adder tree: two terms added and rounded to FP32. -/
def treeNode : Option Value → Option Value → Option Value
  | some x, some y => some (ofF32 (toF32 (Value.add x y)))
  | some x, none => some x
  | none, y => y

/-- One level of the adder tree. -/
def treeLevel : List (Option Value) → List (Option Value)
  | x :: y :: r => treeNode x y :: treeLevel r
  | l => l

/-- The six levels of the adder tree over 64 places (R98). -/
def treeSum (l : List Value) : Value :=
  let leaves := treeOrder 64 (l.map some ++ List.replicate (64 - l.length) none)
  ((treeLevel (treeLevel (treeLevel (treeLevel (treeLevel (treeLevel leaves)))))).getD 0 none).getD .zero

/-- The exact sum of a list. -/
def exactSum : List Value → Value
  | [] => .zero
  | x :: r => Value.add x (exactSum r)

/-- The generator word W(key, n) of R149. -/
def splitMix (key : DWord) (n : Nat) : DWord :=
  let z := key + BitVec.ofNat 64 (n + 1) * 0x9E3779B97F4A7C15#64
  let z := (z ^^^ (z >>> 30)) * 0xBF58476D1CE4E5B9#64
  let z := (z ^^^ (z >>> 27)) * 0x94D049BB133111EB#64
  z ^^^ (z >>> 31)

/-- Draw number n of sub-stream k of an Eddy (R149). -/
def drawOf (seed : DWord) (eddy k n : Nat) : Nat :=
  let key := seed ^^^ BitVec.ofNat 64 (eddy * 2 ^ 56)
  fld (splitMix key (k * 2 ^ 60 + n / 4)).toNat (16 * (n % 4) + 15) (16 * (n % 4))

end Sys2Proof.Machine
end

