-- ==== Sys2Proof/Machine/Sequencer.lean ====
section
/-! DEFINITION. CTL and SCA: control and scalar operations of the sequencer (R76 to R83). -/

namespace Sys2Proof.Machine

/-- What an Eddy becomes, with the flow after it. -/
def withEddy (b : Block) (e : Nat) (r : Except Nat (Eddy × Flow)) : Except Nat (Block × Flow) :=
  r.map (fun p => (putEddy b e p.1, p.2))

/-! ## CTL -/

/-- R76: NOP does nothing. -/
def bodyNop : Body := fun b _ _ => .ok (b, .next)

def execNop (e : Nat) (s : State) := onBlock (issue 0 0x0 bodyNop e) s

/-- R76: BR continues at TARGET. -/
def bodyBr : Body := fun b _ w => .ok (b, .jump (fld w 115 102))

def execBr (e : Nat) (s : State) := onBlock (issue 0 0x1 bodyBr e) s

/-- R76: BRR continues at the index in a register, and raises PC_RANGE above 16,383. -/
def bodyBrr : Body := fun b e w =>
  (ctlReg (getEddy b e) (fld w 115 110)).bind (fun t => if 16383 < t then .error 0x381 else .ok (b, .jump t))

def execBrr (e : Nat) (s : State) := onBlock (issue 0 0x2 bodyBrr e) s

/-- R76: CALL pushes the index after it; the stack holds 8. -/
def bodyCall : Body := fun b e w =>
  let x := getEddy b e
  if 8 ≤ x.calls.length then .error 0x382
  else .ok (putEddy b e { x with calls := (x.pc + 1) :: x.calls }, .jump (fld w 115 102))

def execCall (e : Nat) (s : State) := onBlock (issue 0 0x3 bodyCall e) s

/-- R76: RET pops an index. -/
def bodyRet : Body := fun b e _ =>
  let x := getEddy b e
  match x.calls with
  | [] => .error 0x382
  | t :: r => .ok (putEddy b e { x with calls := r }, .jump t)

def execRet (e : Nat) (s : State) := onBlock (issue 0 0x4 bodyRet e) s

/-- R78, R79: LOOP starts a loop on a counter, or skips the body when the count is 0. -/
def bodyLoop : Body := fun b e w =>
  let x := getEddy b e
  let lc := fld w 115 113
  let last := fld w 112 99
  let count := if bit w 98 then (ctlReg x (fld w 97 92)).map (fun v => v % 2 ^ 32) else .ok (fld w 31 0)
  count.bind (fun n =>
    if n != 0 && decide (8 ≤ x.loops.length) then .error 0x383
    else if decide (last ≤ x.pc) || isLiveCounter x (0x30 + lc) ||
        x.loops.any (fun l => decide (l.last < last)) then .error 0x380
    else
      let x := writeReg x (0x30 + lc) (BitVec.ofNat 64 n) false
      if n = 0 then .ok (putEddy b e x, .skip last)
      else .ok (putEddy b e { x with loops := ⟨lc, x.pc + 1, last⟩ :: x.loops }, .body))

def execLoop (e : Nat) (s : State) := onBlock (issue 0 0x5 bodyLoop e) s

/-- The counter read or stopped: the Gale cycles beyond the issue costs counted so far are open (log 9). -/
def settleCycles (b : Block) (e : Nat) : Block :=
  let r := takeFree b
  updEddy r.2 e (fun x => addCycles x (r.1.toNat % 2 ^ 48))

/-- R80: HALT ends the Task; what it waits for holds its issue. -/
def bodyHalt : Body := fun b e _ => .ok (updEddy (settleCycles b e) e (fun x => { x with run := .halted }), .next)

def execHalt (e : Nat) (s : State) := onBlock (issue 0 0x6 bodyHalt e) s

/-- R77: TRAP records its event, and the Task continues. -/
def bodyTrap : Body := fun b e w =>
  .ok (report b (0x3000 + e) 0x38F (BitVec.ofNat 128 (fld w 15 0 + (getEddy b e).pc * 2 ^ 16)), .next)

def execTrap (e : Nat) (s : State) := onBlock (issue 0 0x7 bodyTrap e) s

/-- R76: RDCTR writes the cycle counter. -/
def bodyRdctr : Body := fun b e w =>
  let b := settleCycles b e
  let x := getEddy b e
  withEddy b e ((setReg x (fld w 115 110) x.cycles false).map (fun y => (y, .next)))

def execRdctr (e : Nat) (s : State) := onBlock (issue 0 0x8 bodyRdctr e) s

/-! ## SCA -/

/-- Operand A and its poison (R81). -/
def scaA (x : Eddy) (w : Nat) : DWord × Bool :=
  if fld w 97 96 = 2 then (0, false) else (readReg x (fld w 109 104), regPoison x (fld w 109 104))

/-- Operand B and its poison (R81). -/
def scaB (x : Eddy) (w : Nat) : DWord × Bool :=
  if fld w 97 96 = 0 then (readReg x (fld w 103 98), regPoison x (fld w 103 98))
  else (BitVec.ofNat 64 (fld w 63 0), false)

/-- An operation of two operands; a poisoned operand poisons RD (R339, R340). -/
def scaOp (f : DWord → DWord → DWord) : Body := fun b e w =>
  let x := getEddy b e
  let a := scaA x w
  let c := scaB x w
  withEddy b e ((setReg x (fld w 115 110) (f a.1 c.1) (a.2 || c.2)).map (fun y => (y, .next)))

def execAdd (e : Nat) (s : State) := onBlock (issue 1 0x0 (scaOp (fun a c => a + c)) e) s
def execSub (e : Nat) (s : State) := onBlock (issue 1 0x1 (scaOp (fun a c => a - c)) e) s
def execMul (e : Nat) (s : State) := onBlock (issue 1 0x2 (scaOp (fun a c => a * c)) e) s

/-- The high 64 bits of the signed product (R81). -/
def mulHigh (a c : DWord) : DWord := BitVec.ofInt 64 ((a.toInt * c.toInt) / 2 ^ 64)

def execMulh (e : Nat) (s : State) := onBlock (issue 1 0x3 (scaOp mulHigh) e) s
def execAnd (e : Nat) (s : State) := onBlock (issue 1 0x4 (scaOp (fun a c => a &&& c)) e) s
def execOr (e : Nat) (s : State) := onBlock (issue 1 0x5 (scaOp (fun a c => a ||| c)) e) s
def execXor (e : Nat) (s : State) := onBlock (issue 1 0x6 (scaOp (fun a c => a ^^^ c)) e) s
def execShl (e : Nat) (s : State) := onBlock (issue 1 0x7 (scaOp (fun a c => a <<< (c.toNat % 64))) e) s
def execShr (e : Nat) (s : State) := onBlock (issue 1 0x8 (scaOp (fun a c => a >>> (c.toNat % 64))) e) s
def execSar (e : Nat) (s : State) := onBlock (issue 1 0x9 (scaOp (fun a c => a.sshiftRight (c.toNat % 64))) e) s
def execMin (e : Nat) (s : State) := onBlock (issue 1 0xA (scaOp (fun a c => if a.slt c then a else c)) e) s
def execMax (e : Nat) (s : State) := onBlock (issue 1 0xB (scaOp (fun a c => if a.slt c then c else a)) e) s

/-- The condition of CMP (R81). -/
def cmpHolds (cond : Nat) (a c : DWord) : Bool :=
  match cond with
  | 0 => a == c
  | 1 => a != c
  | 2 => a.slt c
  | 3 => !a.slt c
  | 4 => a.ult c
  | 5 => !a.ult c
  | 6 => a &&& c != 0
  | _ => a &&& c == 0

/-- R81: CMP writes its predicate bit. -/
def bodyCmp : Body := fun b e w =>
  scaOp (fun a c => if cmpHolds (fld w 95 92) a c then 1 else 0) b e w

def execCmp (e : Nat) (s : State) := onBlock (issue 1 0xC bodyCmp e) s

/-- R81: SEL writes A when the predicate that COND names is true, else B. -/
def bodySel : Body := fun b e w =>
  let x := getEddy b e
  let a := scaA x w
  let c := scaB x w
  let v := if predHolds x (fld w 95 92) then a.1 else c.1
  withEddy b e ((setReg x (fld w 115 110) v (a.2 || c.2 || predPoison x (fld w 95 92))).map (fun y => (y, .next)))

def execSel (e : Nat) (s : State) := onBlock (issue 1 0xD bodySel e) s

/-- The checks of the address of LDS and STS (R83, R97): a Lee address in the Eddy's own banks, aligned, in a Region of
the job that instructions may use. -/
def scaCheck (b : Block) (e a : Nat) : Except Nat Region :=
  if !isLeeAddr a || addrEddy a != e || !decide (addrOff a < 0x0C000000) || !isBacked b a then .error 0x384
  else if a % 8 != 0 then .error 0x385
  else match heldRegionAt b a with
    | none => .error 0x605
    | some r => if r.kind = .stash then .error 0x606 else .ok r

/-- R83: LDS loads 8 B; a poisoned granule poisons RD. -/
def bodyLds : Body := fun b e w =>
  let x := getEddy b e
  if regPoison x (fld w 109 104) then .error 0x38B
  else if isLiveCounter x (fld w 115 110) then .error 0x380
  else
    let a := scaAddr x w
    (scaCheck b e a).map (fun _ =>
      let r := leeBytesAt b a 8
      let v := markedNat r.1
      (updEddy r.2 e (fun y => writeReg y (fld w 115 110) (BitVec.ofNat 64 v.1) v.2), .next))

def execLds (e : Nat) (s : State) := onBlock (issue 1 0xE bodyLds e) s

/-- R83, R238, R239: STS writes 8 B; into a reduction header it may write only ARMWORD, whose arm the bank then
checks. -/
def bodySts : Body := fun b e w =>
  let x := getEddy b e
  if regPoison x (fld w 109 104) then .error 0x38B
  else
    let a := scaAddr x w
    let v := readReg x (fld w 103 98)
    let p := regPoison x (fld w 103 98)
    (scaCheck b e a).bind (fun r =>
      if r.kind = .reduce && decide (addrOff a < r.base + 64) then
        if addrOff a != r.base then .error 0x606
        else if v.getLsbD 63 || p then
          .ok (updEddy { b with lee := { b.lee with regions := b.lee.regions.map (fun q =>
            if q.2.held && q.2.cur == r.cur && q.2.base == r.base then
              (q.1, { q.2 with armReqs := q.2.armReqs ++ [⟨v, p, .eddy e x.matSeq⟩] }) else q) } } e
            (fun y => { y with matSeq := y.matSeq + 1 }), .next)
        else .ok (putHeader b r 0 v.toNat, .next)
      else .ok (leeWriteBytes b (e / 16) a ((leBytes 8 v.toNat).map (fun y => (y, p))), .next))

def execSts (e : Nat) (s : State) := onBlock (issue 1 0xF bodySts e) s

end Sys2Proof.Machine
end

