-- ==== Sys2Proof/Machine/Vector.lean ====
section
/-! DEFINITION. VEC and RED: the vector unit and the reduction unit (R91, R92, R121, R122, R124, R125). -/

namespace Sys2Proof.Machine

/-! ## Slots and their code (R338) -/

/-- The four entries of an accumulator word as 128 bits. -/
def accWord (t : Slot) (w : Nat) : Granule :=
  BitVec.ofNat 128 (leNat ((List.range 4).flatMap (fun k => leBytes 4 (Table.get 0 t.entries (4 * w + k)).toNat)))

/-- The four entries of an accumulator word replaced. -/
def setAccWord (t : Slot) (w : Nat) (d : Granule) : Slot :=
  { t with entries := (List.range 4).foldl (fun m k =>
      Table.put 0 m (4 * w + k) (BitVec.ofNat 32 (fld d.toNat (32 * k + 31) (32 * k)))) t.entries }

/-- A read of one accumulator word checks its code: a correction counts in FLT.CORR_n, an uncorrectable word sets the
Slot's POISON (R125, R338). -/
def checkAcc (b : Block) (e i w : Nat) : Block :=
  let x := getEddy b e
  match Table.find x.accErr (16 * i + w) with
  | none => b
  | some pat =>
    let x' := { x with accErr := Table.erase x.accErr (16 * i + w) }
    match decodeGranule (encodeGranule (accWord (getSlot x i) w) false ^^^ pat) with
    | (d, .clean) => putEddy b e (putSlot x' i (setAccWord (getSlot x i) w d))
    | (d, .corrected) =>
      updCur (putEddy b e (putSlot x' i (setAccWord (getSlot x i) w d))) (e / 16)
        (fun c => { c with corrMat := satAdd 16 c.corrMat 1 })
    | (d, _) =>
      report (putEddy b e (putSlot x' i { setAccWord (getSlot x i) w d with poison := true })) (0x3000 + e) 0x312 0

/-- A Slot read: its sixteen words checked. -/
def readSlot (b : Block) (e i : Nat) : Block := (List.range 16).foldl (fun b w => checkAcc b e i w) b

/-- The Slot whose metadata govern a Slot: the even one of a pair in a wide mode (R107). -/
def slotHead (x : Eddy) (i : Nat) : Nat := if i % 2 == 1 && isWide (getSlot x (i - 1)).mode then i - 1 else i

/-- A flag of a Slot or of the Slot that governs it. -/
def slotFlag (x : Eddy) (i : Nat) (f : Slot → Bool) : Bool := f (getSlot x i) || f (getSlot x (slotHead x i))

/-! ## Operands (R91) -/

/-- An element: its code and whether it is poisoned. -/
abbrev Elem := Nat × Bool

/-- The elements of n bytes-aligned codes of a 16-bit or 32-bit format. -/
def elemsOf (f n : Nat) (l : Marked) : List Elem := (chunks n (elemBytes f 1) l).map markedNat

/-- The entries of Slots from the first on, n elements in all. -/
def slotElems (b : Block) (e first : Nat) : Nat → Nat → List Elem
  | 0, _ => []
  | k + 1, n =>
    let t := getSlot (getEddy b e) first
    let p := slotFlag (getEddy b e) first (·.poison)
    ((List.range 64).take n).map (fun j => ((Table.get 0 t.entries j).toNat, p)) ++
      slotElems b e (first + 1) k (n - 64)

/-- The Slots a run of n elements covers. -/
def slotRun (n : Nat) : Nat := (n + 63) / 64

/-- The fault of a source operand of VEC or RED, if any. -/
def checkSource (b : Block) (e f fmt n : Nat) : Except Nat Unit :=
  let x := getEddy b e
  if regPoison x (f % 64) then .error 0x38B
  else if bit f 6 then
    let first := (readReg x (f % 64)).toNat % 2 ^ 13
    let k := slotRun n
    if 8192 < first + k then .error 0x38A
    else if (List.range k).any (fun i => slotFlag x (first + i) (·.resfail)) then .error 0x305
    else .ok ()
  else checkOwn b (e / 16) false (readReg x (f % 64)).toNat (elemBytes fmt n)

/-- A source operand of VEC or RED read: its elements. -/
def readOperand (b : Block) (e f fmt n : Nat) : List Elem × Block :=
  let x := getEddy b e
  if bit f 6 then
    let first := (readReg x (f % 64)).toNat % 2 ^ 13
    let k := slotRun n
    let b := (List.range k).foldl (fun b i => readSlot b e (first + i)) b
    (slotElems b e first k n, b)
  else
    let r := leeBytesAt b (readReg x (f % 64)).toNat (elemBytes fmt n)
    (elemsOf fmt n r.1, r.2)

/-- Entries written to Slots from the first on; a poisoned element sets the Slot's POISON. -/
def putSlotElems (x : Eddy) (first : Nat) : Nat → List Elem → Eddy
  | 0, _ => x
  | _, [] => x
  | k + 1, l =>
    let t := getSlot x first
    let here := l.take 64
    let ents := (here.zipIdx).foldl (fun m p => Table.put 0 m p.2 (BitVec.ofNat 32 p.1.1)) t.entries
    putSlotElems (putSlot x first { t with entries := ents, poison := t.poison || here.any (·.2) })
      (first + 1) k (l.drop 64)

/-- The check of a destination operand. -/
def checkDest (b : Block) (e f fmt n : Nat) : Except Nat Unit :=
  let x := getEddy b e
  if regPoison x (f % 64) then .error 0x38B
  else if bit f 6 then
    (if 8192 < (readReg x (f % 64)).toNat % 2 ^ 13 + slotRun n then .error 0x38A else .ok ())
  else checkOwn b (e / 16) true (readReg x (f % 64)).toNat (elemBytes fmt n)

/-- Marked bytes of elements of a 16-bit or 32-bit format. -/
def bytesOfElems (f : Nat) (l : List Elem) : Marked :=
  l.flatMap (fun p => (leBytes (elemBytes f 1) p.1).map (fun y => (y, p.2)))

/-- The accumulator word that a run of n elements from a Slot on writes only in part, if any (it is read first), and the
words written, which get fresh check bits (R338). -/
def refreshAcc (b : Block) (e first n : Nat) : Block :=
  let b := if n % 4 = 0 then b else checkAcc b e (first + n / 64) (n % 64 / 4)
  updEddy b e (fun x =>
    { x with accErr := x.accErr.filter (fun p => decide (p.1 < 16 * first) || decide (16 * first + (n + 3) / 4 ≤ p.1)) })

/-- A destination operand written. -/
def writeOperand (b : Block) (e f fmt : Nat) (l : List Elem) : Block :=
  let x := getEddy b e
  let v := (readReg x (f % 64)).toNat
  if bit f 6 then
    let b := refreshAcc b e (v % 2 ^ 13) l.length
    putEddy b e (putSlotElems (getEddy b e) (v % 2 ^ 13) (slotRun l.length) l)
  else leeWriteBytes b (e / 16) v (bytesOfElems fmt l)

/-! ## VEC (R91, R92) -/

/-- The larger (or smaller) of two numbers: a NaN wins, and +0 is larger than −0 (R91, R131). -/
def numMax (x y : Value) : Value :=
  if x.isNan || y.isNan then .nan
  else if Value.lt x y then y
  else if Value.lt y x then x
  else if x.sign then y else x

def numMin (x y : Value) : Value :=
  if x.isNan || y.isNan then .nan
  else if Value.lt x y then x
  else if Value.lt y x then y
  else if x.sign then x else y

/-- The exact result of a VEC OP on numbers a, b, c and the scalar s. -/
def vecResult (op : Nat) (a c d s : Value) : Value :=
  match op with
  | 0 => Value.add a c
  | 1 => Value.sub a c
  | 2 => Value.mul a c
  | 3 => Value.add (Value.mul a c) d
  | 4 => Value.add (Value.mul s a) c
  | 5 => numMax a c
  | 6 => numMin a c
  | 7 => a.abs
  | 8 => a.neg
  | 14 => a
  | k => ofF32 (vecApprox k (toF32 a))

/-- The rounding of element i of an instruction: the draw that RND 0b01 consumes (R148, R149). -/
def rndOf (rnd : Nat) (seed : DWord) (e k first i : Nat) : Rnd :=
  if rnd = 0 then .near else .stoch (drawOf seed e k (first + i))

/-- The source operands of a VEC word, by its number of sources. -/
def vecFields (w : Nat) : Nat → List Nat
  | 3 => [fld w 108 102, fld w 101 95, fld w 94 88]
  | 2 => [fld w 108 102, fld w 101 95]
  | _ => [fld w 108 102]

/-- The first fault of the source operands, in field order. -/
def checkSources (b : Block) (e fmt n : Nat) : List Nat → Except Nat Unit
  | [] => .ok ()
  | f :: r => (checkSource b e f fmt n).bind (fun _ => checkSources b e fmt n r)

/-- Operands read one after another. -/
def readOperands (e fmt n : Nat) : List Nat → Block → List (List Elem) × Block
  | [], b => ([], b)
  | f :: r, b =>
    let p := readOperand b e f fmt n
    let q := readOperands e fmt n r p.2
    (p.1 :: q.1, q.2)

/-- The vector OPs in common: every operand checked, the sources read, each result rounded once to DFMT, the destination
written. -/
def bodyVec (op : Nat) : Body := fun b e w =>
  let x := getEddy b e
  let sf := fld w 83 80
  let df := fld w 87 84
  let rnd := fld w 79 78
  let fs := vecFields w (vecSources op)
  (vecCount x w).bind (fun n =>
    if n = 0 then .ok (updEddy b e (fun y => pushQueue y 5 .plain), .next)
    else
      (checkSources b e sf n fs).bind (fun _ =>
      (checkDest b e (fld w 115 109) df n).map (fun _ =>
        let r := readOperands e sf n fs b
        let s := if op = 4 then ofF32 ((readReg x (fld w 77 72)).setWidth 32) else .zero
        let sp := op == 4 && regPoison x (fld w 77 72)
        let row (k : Nat) := r.1.getD k (List.replicate n (0, false))
        let rows := List.zip (row 0) (List.zip (row 1) (row 2))
        let out := rows.zipIdx.map (fun q =>
          let v := vecResult op (elemValue sf [] q.1.1.1) (elemValue sf [] q.1.2.1.1) (elemValue sf [] q.1.2.2.1) s
          ((fpConvert df (rndOf rnd b.job.seed e 0 x.drawVec q.2) false v).code,
           q.1.1.2 || q.1.2.1.2 || q.1.2.2.2 || sp))
        let b := writeOperand r.2 e (fld w 115 109) df out
        (updEddy b e (fun y =>
          { pushQueue y 5 .plain with drawVec := if rnd = 0 then y.drawVec else y.drawVec + n }), .next))))

def execVadd (e : Nat) (s : State) := onBlock (issue 5 0x0 (bodyVec 0) e) s
def execVsub (e : Nat) (s : State) := onBlock (issue 5 0x1 (bodyVec 1) e) s
def execVmul (e : Nat) (s : State) := onBlock (issue 5 0x2 (bodyVec 2) e) s
def execVfma (e : Nat) (s : State) := onBlock (issue 5 0x3 (bodyVec 3) e) s
def execVaxpy (e : Nat) (s : State) := onBlock (issue 5 0x4 (bodyVec 4) e) s
def execVmax (e : Nat) (s : State) := onBlock (issue 5 0x5 (bodyVec 5) e) s
def execVmin (e : Nat) (s : State) := onBlock (issue 5 0x6 (bodyVec 6) e) s
def execVabs (e : Nat) (s : State) := onBlock (issue 5 0x7 (bodyVec 7) e) s
def execVneg (e : Nat) (s : State) := onBlock (issue 5 0x8 (bodyVec 8) e) s
def execVrcp (e : Nat) (s : State) := onBlock (issue 5 0x9 (bodyVec 9) e) s
def execVrsq (e : Nat) (s : State) := onBlock (issue 5 0xA (bodyVec 10) e) s
def execVsqrt (e : Nat) (s : State) := onBlock (issue 5 0xB (bodyVec 11) e) s
def execVexp2 (e : Nat) (s : State) := onBlock (issue 5 0xC (bodyVec 12) e) s
def execVlog2 (e : Nat) (s : State) := onBlock (issue 5 0xD (bodyVec 13) e) s
def execVcvt (e : Nat) (s : State) := onBlock (issue 5 0xE (bodyVec 14) e) s

/-! ## RED (R121, R122) -/

/-- A result of a reduction: its value as 64 bits, its value as a record holds it, and the winner's index. -/
structure RedResult where
  wide : Nat
  narrow : Nat
  index : Nat
  poison : Bool
deriving DecidableEq, Repr

/-- An element as FP32 bits (exact), or its INT32 bits. -/
def redBits (fmt c : Nat) : Nat := if fmt = 11 ∨ fmt = 10 then c else (toF32 (fpDecode fmt c)).toNat

/-- A 16-bit NaN widened with its bits; other codes as redBits (R122: the winner's bits are returned unchanged). -/
def redCode (fmt c : Nat) : Nat :=
  if fmt = 8 then c * 2 ^ 16
  else if fmt = 9 && (fpDecode 9 c).isNan then fld c 15 15 * 2 ^ 31 + 0x7F800000 + fld c 9 0 * 2 ^ 13
  else redBits fmt c

/-- The index of the winner: the first NaN, else the lowest index among the extreme values; better x y says that x beats
y. -/
def winner (better : Value → Value → Bool) : List (Nat × Value) → Option (Nat × Value) → Option (Nat × Value)
  | [], best => best
  | p :: r, none => winner better r (some p)
  | p :: r, some q =>
    winner better r (if q.2.isNan then some q else if p.2.isNan then some p else if better p.2 q.2 then some p else some q)

/-- The order that an OP of RED prefers. -/
def redBetter (op : Nat) (x y : Value) : Bool :=
  match op with
  | 2 => Value.lt y x
  | 3 => Value.lt x y
  | _ => Value.lt y.abs x.abs

/-- The exact sum of integers. -/
def intSum : List Int → Int
  | [] => 0
  | x :: r => x + intSum r

/-- A sum of integers as 64 and as 32 bits; where it does not fit the manual states no value (log 24). -/
def intResult (x : Int) : Nat × Nat :=
  (if -2 ^ 63 ≤ x ∧ x < 2 ^ 63 then unsignedOf 64 x else (Config.intOver 64 x).toNat,
   if -2 ^ 31 ≤ x ∧ x < 2 ^ 31 then unsignedOf 32 x else (Config.intOver 32 x).toNat % 2 ^ 32)

/-- The reduction of one run of elements (R121, R122). -/
def reduceRun (op fmt : Nat) (l : List Elem) : RedResult :=
  let p := l.any (·.2)
  let nums := l.map (fun x => elemValue fmt [] x.1)
  if op ≤ 1 then
    if fmt = 11 then
      let xs := l.map (fun x => signed 32 x.1)
      let r := intResult (intSum (if op = 0 then xs else xs.map (fun x => x * x)))
      ⟨r.1, r.2, 0, p⟩
    else
      let xs := if op = 0 then nums else nums.map (fun x => ofF32 (toF32 (Value.mul x x)))
      let v := (toF32 (pairwiseSum xs)).toNat
      ⟨v, v, 0, p⟩
  else
    match winner (redBetter op) (nums.zipIdx.map (fun q => (q.2, q.1))) none with
    | none => ⟨0, 0, 0, p⟩
    | some (i, v) =>
      let c := (l.getD i (0, false)).1
      if fmt = 11 then
        let x := signed 32 c
        let r := intResult (if op = 4 then (x.natAbs : Int) else x)
        ⟨r.1, r.2, i, p⟩
      else
        let bits := redCode fmt c
        let y := if op = 4 && !v.isNan then bits % 2 ^ 31 else bits
        ⟨y, y, i, p⟩

/-- Reduction records: value then index, 8 B each. -/
def redRecords (l : List RedResult) : Marked :=
  l.flatMap (fun r => (leBytes 4 r.narrow ++ leBytes 4 r.index).map (fun y => (y, r.poison)))

/-- The destination of a RED: records in Lee, or the registers RD and RI, which may not name a live loop counter. -/
def checkRedDest (b : Block) (e op w n : Nat) : Except Nat Unit :=
  let x := getEddy b e
  let seg := fld w 92 77
  if seg = 0 then
    (if isLiveCounter x (fld w 115 110) || (decide (2 ≤ op) && isLiveCounter x (fld w 109 104)) then .error 0x380
     else .ok ())
  else if regPoison x (fld w 76 71) then .error 0x38B
  else checkOwn b (e / 16) true (readReg x (fld w 76 71)).toNat (8 * (n / seg))

/-- The RED OPs in common (R121). A count of 0 completes at once and writes nothing (R92; log 25). -/
def bodyRed (op : Nat) : Body := fun b e w =>
  let x := getEddy b e
  let fmt := fld w 96 93
  let seg := fld w 92 77
  (vecCount x w).bind (fun n =>
    if seg != 0 && n % seg != 0 then .error 0x380
    else if n = 0 then .ok (updEddy b e (fun y => pushQueue y 6 .plain), .next)
    else
      (checkSource b e (fld w 103 97) fmt n).bind (fun _ => (checkRedDest b e op w n).map (fun _ =>
        let r := readOperand b e (fld w 103 97) fmt n
        let b := updEddy r.2 e (fun y => pushQueue y 6 .plain)
        if seg = 0 then
          let v := reduceRun op fmt r.1
          let y := writeReg (getEddy b e) (fld w 115 110) (BitVec.ofNat 64 v.wide) v.poison
          (putEddy b e (if op ≤ 1 then y else writeReg y (fld w 109 104) (BitVec.ofNat 64 v.index) v.poison), .next)
        else
          (leeWriteBytes b (e / 16) (readReg x (fld w 76 71)).toNat
            (redRecords ((chunks n seg r.1).map (reduceRun op fmt))), .next))))

def execRsum (e : Nat) (s : State) := onBlock (issue 6 0x0 (bodyRed 0) e) s
def execRsumsq (e : Nat) (s : State) := onBlock (issue 6 0x1 (bodyRed 1) e) s
def execRmax (e : Nat) (s : State) := onBlock (issue 6 0x2 (bodyRed 2) e) s
def execRmin (e : Nat) (s : State) := onBlock (issue 6 0x3 (bodyRed 3) e) s
def execRamax (e : Nat) (s : State) := onBlock (issue 6 0x4 (bodyRed 4) e) s

end Sys2Proof.Machine
end

