-- ==== Sys2Proof/Machine/Quant.lean ====
section
/-! DEFINITION. QNT: the quantiser (R133 to R148, R155 to R157). -/

namespace Sys2Proof.Machine

/-! ## Groups (R135) -/

/-- Elements with their group, in element order. -/
def qTagged (d : QDesc) (rows : List (List Elem)) : List (Nat × Elem) :=
  rows.zipIdx.flatMap (fun p => p.1.zipIdx.map (fun q => (qGroup d p.2 q.2, q.1)))

/-- The elements of a group. -/
def qMembers (g : Nat) (l : List (Nat × Elem)) : List Elem := (l.filter (fun p => p.1 == g)).map (·.2)

/-! ## Range records (R136, R140) -/

/-- A range record. -/
structure Rng where
  nonfin : Nat
  amax : Value
  max : Value
  min : Value
  poison : Bool
deriving DecidableEq, Repr

def Rng.empty : Rng := ⟨0, .zero, .inf true, .inf false, false⟩

/-- The larger of two finite bounds, +0 above −0 (so that the fold does not depend on order). -/
def rngMax (x y : Value) : Value := numMax x y
def rngMin (x y : Value) : Value := numMin x y

/-- An element folded into a record. -/
def rngFold (r : Rng) (v : Value) (p : Bool) : Rng :=
  if v.isFin then { r with amax := rngMax r.amax v.abs, max := rngMax r.max v, min := rngMin r.min v, poison := r.poison || p }
  else { r with nonfin := satAdd 32 r.nonfin 1, poison := r.poison || p }

/-- Two records folded. -/
def rngMerge (r q : Rng) : Rng :=
  { nonfin := satAdd 32 r.nonfin q.nonfin, amax := rngMax r.amax q.amax, max := rngMax r.max q.max
    min := rngMin r.min q.min, poison := r.poison || q.poison }

/-- The record a granule holds. -/
def rngOf (g : Granule × Bool) : Rng :=
  let f (hi lo : Nat) := ofF32 (BitVec.ofNat 32 (fld g.1.toNat hi lo))
  ⟨fld g.1.toNat 127 96, f 95 64, f 63 32, f 31 0, g.2⟩

/-- The granule of a record. -/
def rngGranule (r : Rng) : Granule × Bool :=
  (BitVec.ofNat 128 (r.nonfin * 2 ^ 96 + (toF32 r.amax).toNat * 2 ^ 64 + (toF32 r.max).toNat * 2 ^ 32 +
    (toF32 r.min).toNat), r.poison)

/-! ## Scales (R133, R134, R141, R144) -/

/-- What a scale record tells about its group. -/
inductive Scale where
  /-- A scale and an integer zero point. -/
  | lin (s : Value) (z : Int)
  /-- Every element equals a constant. -/
  | const (c : Value)
  /-- Every element is NaN; the zero point that the record holds. -/
  | bad (z : Nat)
deriving DecidableEq, Repr

/-- The element format code of a scale format other than E8M0. -/
def sfmtFmt (f : Nat) : Nat := if f = 1 then 6 else if f = 2 then 8 else 10

/-- The CONST code of a scale format (R133). -/
def constCode (f : Nat) : Nat := 2 ^ (8 * scaleBytes f - 1)

/-- A scale code read (R134): zero-point field z, or the constant it holds. -/
def readScale (f : Nat) (zpf : Bool) (c zc : Nat) : Scale :=
  let z := if zpf then zc else 0
  if f = 0 then (if c = 0xFF then .bad z else .lin (Value.scaled false 1 ((c : Int) - 127)) 0)
  else if c = constCode f then (if zpf then .const (fpDecode (sfmtFmt f) zc) else .bad z)
  else match fpDecode (sfmtFmt f) c with
    | .fin false n d => .lin (.fin false n d) z
    | _ => .bad z

/-- The code of the smallest value of a scale format at or above n/d > 0, kept in the format's finite positive range
(R141). -/
def roundUpScale (f n d : Nat) : Nat :=
  if f = 0 then
    let l := floorLog n d
    let u := inUnits n d l
    (max 0 (min 254 ((if u.1 = u.2 then l else l + 1) + 127))).toNat
  else
    let k := sfmtFmt f
    let q := max (floorLog n d - (fpMant k : Int)) (fpQmin k)
    let u := inUnits n d q
    let c := (q - fpQmin k).toNat * 2 ^ fpMant k + u.1 / u.2 + b2n (u.1 % u.2 != 0)
    max 1 (min c (fpMaxCode k))

/-- The code of 1.0. -/
def oneScale (f : Nat) : Nat := if f = 0 then 127 else (fpConvert (sfmtFmt f) .near false (.fin false 1 1)).code

/-- Q: the largest code magnitude the quantiser writes (R141). -/
def qMaxMag (d : QDesc) : Value :=
  match d.ofmt with
  | 0 => .ofInt 7
  | 1 => .ofInt 15
  | 2 => .ofInt 6
  | 3 => (d.cb.map (fun c => (fpDecode 6 c).abs)).foldl numMax .zero
  | 4 => .ofInt 127
  | 5 => .ofInt 255
  | 6 => .ofInt 448
  | _ => .ofInt 57344

/-- A scale record: its codes. -/
structure ScaleRec where
  code : Nat
  zp : Nat
deriving DecidableEq, Repr

/-- The code of roundUp of a non-negative quotient that is a finite number. -/
def roundUpNum (f : Nat) (x : Value) : Nat :=
  match x with
  | .fin _ n d => if n = 0 then 1 else roundUpScale f n d
  | _ => if f = 0 then 254 else fpMaxCode (sfmtFmt f)

/-- MX: the exponent of the element format's largest value (R144). -/
def mxEmax (f : Nat) : Int := if f = 6 then 8 else if f = 7 then 15 else if f = 2 then 2 else 0

/-- The scale record that CONVERT derives from a range record (R141, R144). -/
def deriveScale (d : QDesc) (r : Rng) : ScaleRec :=
  let some_ := r.max != .inf true
  if d.mx then
    if r.nonfin != 0 then ⟨0xFF, 0⟩
    else match r.amax with
      | .fin _ n e => if n = 0 then ⟨0, 0⟩ else ⟨(max (-127) (floorLog n e - mxEmax d.ofmt) + 127).toNat, 0⟩
      | _ => ⟨0, 0⟩
  else if d.zpf && some_ && Value.eqv r.min r.max then
    ⟨constCode d.sfmt, (fpConvert (sfmtFmt d.sfmt) .near false r.min).code⟩
  else if !some_ || (d.ofmt != 1 && d.ofmt != 5 && r.amax.isZero) then ⟨oneScale d.sfmt, 0⟩
  else if d.ofmt != 1 && d.ofmt != 5 then ⟨roundUpNum d.sfmt (Value.div r.amax (qMaxMag d)), 0⟩
  else
    let lo := numMin r.min .zero
    let hi := numMax r.max .zero
    let c := roundUpNum d.sfmt (Value.div (Value.sub hi lo) (qMaxMag d))
    let q : Int := if d.ofmt = 1 then 15 else 255
    let z := match readScale d.sfmt false c 0 with
      | .lin s _ => roundInt .near (Value.div lo.neg s)
      | _ => 0
    ⟨c, (max 0 (min q z)).toNat⟩

/-- Bytes of scale records. -/
def scaleRecsBytes (d : QDesc) (l : List (ScaleRec × Bool)) : Marked :=
  l.flatMap (fun p => (leBytes (scaleBytes d.sfmt) p.1.code ++
    (if d.zpf then leBytes (scaleBytes d.sfmt) p.1.zp else [])).map (fun y => (y, p.2)))

/-- Scale records in bytes. -/
def scaleRecsOf (d : QDesc) (n : Nat) (l : Marked) : List (ScaleRec × Bool) :=
  (chunks n (scaleRecBytes d) l).map (fun r =>
    let w := scaleBytes d.sfmt
    (⟨leNat ((r.take w).map (·.1)), leNat ((r.drop w).map (·.1))⟩, r.any (·.2)))

/-! ## Element conversion (R132, R142, R143, R144) -/

/-- Rounding into INT4 or INT8 with magnitude limit q. -/
def intConvert (w q : Nat) (rnd : Rnd) (x : Value) : Conv :=
  match x with
  | .nan => ⟨0, false, true⟩
  | .inf s => ⟨unsignedOf w (if s then -(q : Int) else q), false, true⟩
  | .fin _ n d =>
    let past := match rnd with
      | .near => decide ((2 * q + 1) * d ≤ 2 * n)
      | .stoch _ => decide (q * d < n)
    let v := roundInt rnd x
    ⟨unsignedOf w (max (-(q : Int)) (min (q : Int) v)), past, false⟩

/-- Rounding into UINT4 or UINT8 with zero point z and end code q: an integer is rounded, z added, and the sum clamped; it
overflows beyond the codes 0 to q (R132, R142). -/
def uintConvert (q z : Nat) (rnd : Rnd) (x : Value) : Conv :=
  match x with
  | .nan => ⟨min z q, false, true⟩
  | .inf s => ⟨if s then 0 else q, false, true⟩
  | .fin s n d =>
    let num : Int := if s then -(n : Int) else n
    let beyond := max (num + (z - q : Int) * d) (-(num + (z : Int) * d))
    let past := match rnd with
      | .near => decide ((d : Int) ≤ 2 * beyond)
      | .stoch _ => decide (0 < beyond)
    let v := roundInt rnd x + (z : Int)
    ⟨(max 0 (min (q : Int) v)).toNat, past, false⟩

/-- The index of the codebook entry nearest to x, the lowest on a tie. -/
def nearestEntry (cb : List Nat) (x : Value) : Nat :=
  (cb.zipIdx.foldl (fun (best : Nat × Value) p =>
    let dist := (Value.sub (fpDecode 6 p.1) x).abs
    if Value.lt dist best.2 then (p.2, dist) else best) (0, .inf false)).1

/-- Conversion to CB4 (R132, R142). -/
def cbConvert (cb : List Nat) (x : Value) : Conv :=
  let vs := cb.map (fpDecode 6)
  let top := vs.foldl numMax .zero
  let low := vs.foldl numMin .zero
  match x with
  | .nan => ⟨nearestEntry cb .zero, false, true⟩
  | .inf s => ⟨nearestEntry cb (if s then low else top), false, true⟩
  | .fin _ _ _ => ⟨nearestEntry cb x, Value.lt top x || Value.lt x low, false⟩

/-- Conversion of x / s into the code format (R142). -/
def codeConvert (d : QDesc) (rnd : Rnd) (z : Nat) (y : Value) : Conv :=
  match d.ofmt with
  | 0 => intConvert 4 7 rnd y
  | 1 => uintConvert 15 z rnd y
  | 3 => cbConvert d.cb y
  | 4 => intConvert 8 127 rnd y
  | 5 => uintConvert 255 z rnd y
  | f => fpConvert f rnd (d.satf || d.mx) y

/-- x / s for a scale of R134: a finite x that is not 0 lies beyond every finite value over a +0 scale, which overflows
(R157); 0 over it is open (log 34). -/
def overScale (x s : Value) : Value :=
  if s.isZero && x.isFin then
    (if x.isZero then ofF32 Config.zeroOverZero else .fin x.sign (2 ^ 1024) 1)
  else Value.div x s

/-- The conversion of an element by its group's scale. -/
def convertElem (d : QDesc) (rnd : Rnd) (s : Scale) (x : Value) : Conv :=
  match s with
  | .const _ => ⟨0, false, !x.isFin⟩
  | .bad z => if d.mx then ⟨0, false, !x.isFin⟩ else codeConvert d rnd z .nan
  | .lin s z =>
    let y := overScale x s
    let y := if d.mx && d.ofmt == 4 then Value.mul y (.ofInt 64) else y
    let c := codeConvert d rnd z.toNat y
    if d.mx then { c with sat := false } else c

/-- The expansion of a code by its group's scale (R143, R145). -/
def expandElem (d : QDesc) (rnd : Rnd) (s : Scale) (q : Nat) : Conv :=
  match s with
  | .const c => fpConvert d.ofmt rnd false c
  | .bad _ => { fpConvert d.ofmt rnd false .nan with nanc := true }
  | .lin s z =>
    let v := elemValue d.ifmt d.cb q
    let v := if d.ifmt = 1 ∨ d.ifmt = 5 then Value.sub v (.ofInt z) else v
    let v := if d.mx && d.ifmt == 4 then Value.mul v (.fin false 1 64) else v
    fpConvert d.ofmt rnd false (Value.mul s v)

/-! ## Rows in Lee -/

/-- The codes of a row in its bytes. -/
def rowElems (f cols : Nat) (l : Marked) : List Elem :=
  if f ≤ 3 then
    (l.flatMap (fun p => [(fld p.1.toNat 3 0, p.2), (fld p.1.toNat 7 4, p.2)])).take cols
  else elemsOf' f cols l
where
  elemsOf' (f n : Nat) (l : Marked) : List Elem := (chunks n (elemBytes f 1) l).map markedNat

/-- Pairs of 4-bit codes as bytes. -/
def packNibbles : List Elem → Marked
  | a :: c :: r => (BitVec.ofNat 8 (a.1 + 16 * c.1), a.2 || c.2) :: packNibbles r
  | [a] => [(BitVec.ofNat 8 a.1, a.2)]
  | [] => []

/-- The bytes of a row of codes. -/
def rowBytes (f : Nat) (l : List Elem) : Marked :=
  if f ≤ 3 then packNibbles l else l.flatMap (fun p => (leBytes (elemBytes f 1) p.1).map (fun y => (y, p.2)))

/-- Rows read from Lee. -/
def readRows (b : Block) (a pitch f cols : Nat) : Nat → List (List Elem) × Block
  | 0 => ([], b)
  | n + 1 =>
    let r := leeBytesAt b a (elemBytes f cols)
    let t := readRows r.2 (a + pitch) pitch f cols n
    (rowElems f cols r.1 :: t.1, t.2)

/-- Rows written to Lee. -/
def writeRows (b : Block) (n a pitch f : Nat) : List (List Elem) → Block
  | [] => b
  | r :: t => writeRows (leeWriteBytes b n a (rowBytes f r)) n (a + pitch) pitch f t

/-- Every row lies where R137 allows. -/
def checkRows (b : Block) (c : Nat) (write : Bool) (a pitch bytes : Nat) : Nat → Except Nat Unit
  | 0 => .ok ()
  | n + 1 => (checkOwn b c write a bytes).bind (fun _ => checkRows b c write (a + pitch) pitch bytes n)

/-- The address in a QNT operand register: granule-aligned, else ALIGN; a poisoned register faults. -/
def qAddr (x : Eddy) (r : Nat) : Except Nat Nat :=
  (ctlReg x r).bind (fun a => if a % 16 != 0 then .error 0x385 else .ok a)

/-- Saturations and NaN conversions counted in QNT_STAT, with their events (R155, R156). -/
def countConv (b : Block) (e nan sat : Nat) : Block :=
  let b := updEddy b e (fun x => { x with nanCvt := satAdd 16 x.nanCvt nan, satCvt := satAdd 16 x.satCvt sat })
  let b := if nan = 0 then b else reportOnce b e 0x320 0x320
  if sat = 0 then b else reportOnce b e 0x321 0x321

/-- Rows of a flat list. -/
def regroup (d : QDesc) (l : List Elem) : List (List Elem) := chunks d.rows d.cols l

/-- What QNT instructions have in common: the descriptor is read and checked, a count of 0 ends at once (R137, R139,
R146). -/
def bodyQnt (op : Nat) (run : Block → Nat → Nat → QDesc → Except Nat Block) : Body := fun b e w =>
  let x := getEddy b e
  (qAddr x (fld w 91 86)).bind (fun a => (checkOwn b (e / 16) false a 48).bind (fun _ =>
    let r := leeBytesAt b a 48
    if r.1.any (·.2) then .ok (r.2, .fault 0x38B)
    else
      let d := qDescOf (r.1.map (·.1))
      if !qDescOk op (fld w 85 84) d then .ok (r.2, .fault 0x380)
      else if d.rows = 0 || d.cols = 0 then .ok (updEddy r.2 e (fun y => pushQueue y 7 .plain), .next)
      else match run r.2 e w d with
        | .error c => .ok (r.2, .fault c)
        | .ok b => .ok (updEddy b e (fun y => pushQueue y 7 .plain), .next)))

/-- R140: SCAN folds each group into its range record. -/
def runScan (b : Block) (e w : Nat) (d : QDesc) : Except Nat Block :=
  let x := getEddy b e
  let c := e / 16
  (qAddr x (fld w 115 110)).bind (fun src => (qAddr x (fld w 97 92)).bind (fun rr =>
    (checkRows b c false src d.spitch (elemBytes d.ifmt d.cols) d.rows).bind (fun _ =>
    (checkOwn b c true rr (16 * qGroups d)).map (fun _ =>
      let r := readRows b src d.spitch d.ifmt d.cols d.rows
      let old := if d.acc then leeReadN r.2 (rr / 16) (qGroups d) else (List.replicate (qGroups d) (rngGranule Rng.empty), r.2)
      let tags := qTagged d r.1
      let recs := old.1.zipIdx.map (fun p =>
        rngGranule ((qMembers p.2 tags).foldl (fun q y => rngFold q (elemValue d.ifmt [] y.1) y.2)
          (if d.acc then rngOf p.1 else Rng.empty)))
      leeWriteN old.2 c (rr / 16) recs))))

def execScan (e : Nat) (s : State) := onBlock (issue 7 0x0 (bodyQnt 0 runScan) e) s

/-- The fault of the scale or range records of CONVERT, if any (R137, R141). -/
def checkScales (b : Block) (c srec rrec : Nat) (d : QDesc) : Except Nat Unit :=
  let n := qGroups d
  if d.ssrc = 2 then checkOwn b c false srec (n * scaleRecBytes d)
  else if d.ssrc = 1 then
    if rrec % 16 != 0 then .error 0x385
    else (checkOwn b c false rrec (16 * n)).bind (fun _ => checkOwn b c true srec (n * scaleRecBytes d))
  else checkOwn b c true srec (n * scaleRecBytes d)

/-- The scale records of CONVERT: found in this pass, from range records, or given (R141). -/
def convertScales (b : Block) (srec rrec : Nat) (d : QDesc) (tags : List (Nat × Elem)) :
    List (ScaleRec × Bool) × Block :=
  let n := qGroups d
  if d.ssrc = 2 then
    let r := leeBytesAt b srec (n * scaleRecBytes d)
    (scaleRecsOf d n r.1, r.2)
  else if d.ssrc = 1 then
    let r := leeReadN b (rrec / 16) n
    (r.1.map (fun g => (deriveScale d (rngOf g), g.2)), r.2)
  else
    ((List.range n).map (fun g =>
      let q := (qMembers g tags).foldl (fun q y => rngFold q (elemValue d.ifmt [] y.1) y.2) Rng.empty
      (deriveScale d q, q.poison)), b)

/-- R141, R142, R144: CONVERT writes codes, and scale records unless they were given. -/
def runConvert (b : Block) (e w : Nat) (d : QDesc) : Except Nat Block :=
  let x := getEddy b e
  let c := e / 16
  let rnd := fld w 85 84
  (qAddr x (fld w 115 110)).bind (fun src => (qAddr x (fld w 109 104)).bind (fun dst =>
    (qAddr x (fld w 103 98)).bind (fun srec =>
    (if d.ssrc = 1 then ctlReg x (fld w 97 92) else .ok 0).bind (fun rrec =>
    (checkRows b c false src d.spitch (elemBytes d.ifmt d.cols) d.rows).bind (fun _ =>
    (checkRows b c true dst d.dpitch (elemBytes d.ofmt d.cols) d.rows).bind (fun _ =>
      (checkScales b c srec rrec d).map (fun _ =>
        let r := readRows b src d.spitch d.ifmt d.cols d.rows
        let tags := qTagged d r.1
        let sc := convertScales r.2 srec rrec d tags
        let out := tags.zipIdx.map (fun p =>
          let rec1 := sc.1.getD p.1.1 (⟨0, 0⟩, false)
          (convertElem d (rndOf rnd b.job.seed e 1 x.drawQnt p.2) (readScale d.sfmt d.zpf rec1.1.code rec1.1.zp)
            (elemValue d.ifmt [] p.1.2.1), p.1.2.2 || rec1.2))
        let b := writeRows sc.2 c dst d.dpitch d.ofmt (regroup d (out.map (fun p => (p.1.code, p.2))))
        let b := if d.ssrc = 2 then b else leeWriteBytes b c srec (scaleRecsBytes d sc.1)
        let b := countConv b e (out.filter (·.1.nanc)).length (out.filter (·.1.sat)).length
        updEddy b e (fun y => { y with drawQnt := if rnd = 0 then y.drawQnt else y.drawQnt + out.length }))))))))

def execConvert (e : Nat) (s : State) := onBlock (issue 7 0x1 (bodyQnt 1 runConvert) e) s

/-- R143: EXPAND writes wide data from codes and scale records. -/
def runExpand (b : Block) (e w : Nat) (d : QDesc) : Except Nat Block :=
  let x := getEddy b e
  let c := e / 16
  let rnd := fld w 85 84
  (qAddr x (fld w 115 110)).bind (fun src => (qAddr x (fld w 109 104)).bind (fun dst =>
    (qAddr x (fld w 103 98)).bind (fun srec =>
    (checkRows b c false src d.spitch (elemBytes d.ifmt d.cols) d.rows).bind (fun _ =>
    (checkRows b c true dst d.dpitch (elemBytes d.ofmt d.cols) d.rows).bind (fun _ =>
    (checkOwn b c false srec (qGroups d * scaleRecBytes d)).map (fun _ =>
      let r := readRows b src d.spitch d.ifmt d.cols d.rows
      let q := leeBytesAt r.2 srec (qGroups d * scaleRecBytes d)
      let sc := scaleRecsOf d (qGroups d) q.1
      let out := (qTagged d r.1).zipIdx.map (fun p =>
        let rec1 := sc.getD p.1.1 (⟨0, 0⟩, false)
        (expandElem d (rndOf rnd b.job.seed e 1 x.drawQnt p.2) (readScale d.sfmt d.zpf rec1.1.code rec1.1.zp) p.1.2.1,
          p.1.2.2 || rec1.2))
      let b := writeRows q.2 c dst d.dpitch d.ofmt (regroup d (out.map (fun p => (p.1.code, p.2))))
      let b := countConv b e (out.filter (·.1.nanc)).length (out.filter (·.1.sat)).length
      updEddy b e (fun y => { y with drawQnt := if rnd = 0 then y.drawQnt else y.drawQnt + out.length })))))))

def execExpand (e : Nat) (s : State) := onBlock (issue 7 0x2 (bodyQnt 2 runExpand) e) s

/-- R140: RMERGE folds ROWS arrays of COLS records into COLS records. -/
def runRmerge (b : Block) (e w : Nat) (d : QDesc) : Except Nat Block :=
  let x := getEddy b e
  let c := e / 16
  (qAddr x (fld w 115 110)).bind (fun src => (qAddr x (fld w 97 92)).bind (fun rr =>
    (checkOwn b c false src (16 * d.rows * d.cols)).bind (fun _ => (checkOwn b c true rr (16 * d.cols)).map (fun _ =>
      let r := leeReadN b (src / 16) (d.rows * d.cols)
      let old := if d.acc then leeReadN r.2 (rr / 16) d.cols else (List.replicate d.cols (rngGranule Rng.empty), r.2)
      let arrays := chunks d.rows d.cols r.1
      let recs := old.1.zipIdx.map (fun p =>
        rngGranule (arrays.foldl (fun q a => rngMerge q (rngOf (a.getD p.2 (rngGranule Rng.empty))))
          (if d.acc then rngOf p.1 else Rng.empty)))
      leeWriteN old.2 c (rr / 16) recs))))

def execRmerge (e : Nat) (s : State) := onBlock (issue 7 0x3 (bodyQnt 3 runRmerge) e) s

end Sys2Proof.Machine
end

