-- ==== Sys2Proof/Machine/Sync.lean ====
section
/-! DEFINITION. MOV, Gates, barriers, fences and the take-up of unit queues (R74, R84 to R90, R44 to R46, R52). -/

namespace Sys2Proof.Machine

/-! ## MOV -/

/-- R84: MOV copies n granules with their marks, all read before any is written, by way of the Task's Current; the
sequencer then waits for the acknowledgment (R85). Of several faults it reports the count's first (log 150). -/
def bodyMov : Body := fun b e w =>
  let x := getEddy b e
  if regPoison x (fld w 115 110) || regPoison x (fld w 109 104) || (bit w 97 && regPoison x (fld w 103 98)) then
    .error 0x38B
  else
    let n := movCount x w
    let d := (readReg x (fld w 115 110)).toNat
    let a := (readReg x (fld w 109 104)).toNat
    if 4096 < n then .error 0x389
    else if n = 0 then .ok (b, .next)
    else if !isLeeAddr a || !isLeeAddr d || !curUsable b (addrCur a) || !curUsable b (addrCur d) then .error 0x384
    else if a % 16 != 0 || d % 16 != 0 then .error 0x385
    else if seamBars b (curHalf (addrCur a)) (curHalf (e / 16)) || seamBars b (curHalf (e / 16)) (curHalf (addrCur d)) then
      .error seamLost
    else
      (checkAny b false a (16 * n)).bind (fun _ => (checkAny b true d (16 * n)).map (fun _ =>
        let r := leeReadN b (a / 16) n
        let r := movePath r.2 (.cur (addrCur a)) (.cur (e / 16)) r.1
        let r := movePath r.2 (.cur (e / 16)) (.cur (addrCur d)) r.1
        (updEddy (leeWriteN r.2 (e / 16) (d / 16) r.1) e (fun y => { y with wait := .mov }), .next)))

def execMov (e : Nat) (s : State) := onBlock (issue 2 0x0 bodyMov e) s

/-- The end of a wait. -/
def endWait (b : Block) (e : Nat) : Block := updEddy b e (fun x => { x with wait := .none })

/-- R85: the last write of a MOV is acknowledged, and issue resumes. -/
def movComplete (e : Nat) (b : Block) : Block := if (getEddy b e).wait == .mov then endWait b e else b

def execMovComplete (e : Nat) (s : State) := onBlock (clockedStep (movComplete e)) s

/-! ## Gates: the instructions -/

/-- The gate ID of a SYN instruction (R86). -/
def gateId (x : Eddy) (w : Nat) : Except Nat Nat :=
  if bit w 86 then (ctlReg x (fld w 85 80)).map (fun v => v % 2 ^ 13) else .ok (fld w 115 103)

/-- A message leaves for a Gate; a Gate in a disabled or Gated Current faults at issue (R88). -/
def sendGate (b : Block) (e w : Nat) (kind : GateMsgKind) : Except Nat (Nat × Block) :=
  let x := getEddy b e
  (gateId x w).bind (fun g =>
    if !curUsable b (g / 1024) then .error 0x386
    else if seamBars b (curHalf (e / 16)) (curHalf (g / 1024)) then .error seamLost
    else .ok (g, { b with gateMsgs := b.gateMsgs ++ [⟨g, e, x.pc, x.matSeq, kind⟩] }))

/-- R86, R46: GSIG sends its count; the sequencer goes on. -/
def bodyGsig : Body := fun b e w =>
  (sendGate b e w (.signal (fld w 102 87))).map (fun r => (r.2, .next))

def execGsig (e : Nat) (s : State) := onBlock (issue 9 0x0 bodyGsig e) s

/-- R86, R452: GWAIT sends its wait and holds issue. -/
def bodyGwait : Body := fun b e w =>
  (sendGate b e w (.wait (fld w 102 87))).map (fun r =>
    (updEddy r.2 e (fun y => { y with wait := .gate r.1 false }), .next))

def execGwait (e : Nat) (s : State) := onBlock (issue 9 0x1 bodyGwait e) s

/-- R86, R88: BAR sends its arrival and holds issue. -/
def bodyBar : Body := fun b e w =>
  (sendGate b e w (.bar (fld w 102 87))).map (fun r =>
    (updEddy r.2 e (fun y => { y with wait := .gate r.1 false }), .next))

def execBar (e : Nat) (s : State) := onBlock (issue 9 0x2 bodyBar e) s

/-- R86, R90: FENCE holds issue until its scope is met. -/
def bodyFence : Body := fun b e w =>
  .ok (updEddy b e (fun y => { y with wait := .fence (fld w 115 114) }), .next)

def execFence (e : Nat) (s : State) := onBlock (issue 9 0x3 bodyFence e) s

/-- R52, R90: a FENCE completes once the conditions of its scope are met. -/
def fenceComplete (e : Nat) (b : Block) : Block :=
  match (getEddy b e).wait with
  | .fence scope => if fenceMet b e scope then endWait b e else b
  | _ => b

def execFenceComplete (e : Nat) (s : State) := onBlock (clockedStep (fenceComplete e)) s

/-! ## Gates: the messages -/

/-- The place in the list of messages of the k-th one that a test picks, counted from a place. -/
def nthMsg (p : GateMsg → Bool) : Nat → List GateMsg → Nat → Option (Nat × GateMsg)
  | _, [], _ => none
  | i, m :: r, k => if p m then (if k = 0 then some (i, m) else nthMsg p (i + 1) r (k - 1)) else nthMsg p (i + 1) r k

/-- The message at a place waits behind an earlier one of its Eddy over the same half-crossbar to the same Current (R17). -/
def behindMsg (b : Block) (i : Nat) (m : GateMsg) : Bool :=
  m.gate / 1024 != m.eddy / 16 &&
    (b.gateMsgs.take i).any (fun k => k.eddy == m.eddy && k.gate / 1024 == m.gate / 1024)

/-- The seam no longer carries a message (R21). -/
def msgLost (b : Block) (m : GateMsg) : Bool := seamBars b (curHalf (m.eddy / 16)) (curHalf (m.gate / 1024))

/-- The message carries a signal. -/
def isSignal (m : GateMsg) : Bool :=
  match m.kind with
  | .signal _ => true
  | _ => false

/-- The message is a barrier arrival, which releases as a signal does (R88). -/
def GateMsgKind.isBar : GateMsgKind → Bool
  | .bar _ => true
  | _ => false

/-- Every access that the signaller issued before the message is visible (R46). -/
def released (b : Block) (m : GateMsg) : Bool := accessesMet b m.eddy m.after

/-- R17, R44, R45, R88: the k-th signal on its way to Gate g arrives, once its release is met. -/
def gateSignalArrival (g k : Nat) (b : Block) : Block :=
  match nthMsg (fun m => m.gate == g && isSignal m) 0 b.gateMsgs k with
  | none => b
  | some (i, m) =>
    if !released b m || behindMsg b i m then b
    else
      let b := { b with gateMsgs := dropAt b.gateMsgs i }
      if msgLost b m then taskFault b m.eddy m.pc seamLost
      else if !(getGate b g).held then taskFault b m.eddy m.pc 0x386
      else if (getGate b g).barUse then taskFault b m.eddy m.pc 0x387
      else match m.kind with
        | .signal n => addSignal b g n
        | _ => b

def execGateSignalArrival (g k : Nat) (s : State) := onBlock (clockedStep (gateSignalArrival g k)) s

/-- A wait reaches its Gate (R44, R45). -/
def waitArrives (b : Block) (m : GateMsg) (thresh : Nat) : Block :=
  let g := getGate b m.gate
  if g.barUse then taskFault b m.eddy m.pc 0x387
  else if thresh ≤ g.value then
    letThrough (putGate b m.gate { g with value := g.value - thresh }) m.gate [m.eddy]
  else putGate b m.gate { g with waits := g.waits ++ [⟨m.eddy, thresh⟩] }

/-- A BAR reaches its Gate: the barrier generation, and its release when the value reaches N (R88). -/
def barArrives (b : Block) (m : GateMsg) (n : Nat) : Block :=
  let g := getGate b m.gate
  if (!g.barUse && (g.value != 0 || !g.waits.isEmpty)) || (g.barN != 0 && g.barN != n) then
    taskFault b m.eddy m.pc 0x387
  else
    let all := g.barWaits ++ [m.eddy]
    if g.value + 1 = n then
      letThrough (putGate b m.gate { g with barUse := true, value := 0, barN := 0, barWaits := [] }) m.gate all
    else putGate b m.gate { g with barUse := true, value := g.value + 1, barN := n, barWaits := all }

/-- R45, R88, R452: the k-th wait or barrier arrival on its way to Gate g reaches it. -/
def gateWaitArrival (g k : Nat) (b : Block) : Block :=
  match nthMsg (fun m => m.gate == g && !isSignal m) 0 b.gateMsgs k with
  | none => b
  | some (i, m) =>
    if (m.kind.isBar && !released b m) || behindMsg b i m then b
    else
      let b := { b with gateMsgs := dropAt b.gateMsgs i }
      if msgLost b m then taskFault b m.eddy m.pc seamLost
      else if !(getGate b g).held then taskFault b m.eddy m.pc 0x386
      else match m.kind with
        | .wait t => waitArrives b m t
        | .bar n => barArrives b m n
        | .signal _ => b

def execGateWaitArrival (g k : Nat) (s : State) := onBlock (clockedStep (gateWaitArrival g k)) s

/-- R89: the wake of a GWAIT or BAR that its Gate has let through; the next instruction can issue. -/
def gateWake (e : Nat) (b : Block) : Block :=
  match (getEddy b e).wait with
  | .gate _ true => endWait b e
  | _ => b

def execGateWake (e : Nat) (s : State) := onBlock (clockedStep (gateWake e)) s

end Sys2Proof.Machine
end

