-- ==== Sys2Proof/Machine/Matrix.lean ====
section
/-! DEFINITION. MAT: Tiles, Slots, the streaming product and drains (R98 to R118, R123 to R125, R128). -/

namespace Sys2Proof.Machine

/-! ## Operations in flight -/

/-- The operations with the i-th taken out. -/
def dropOp (b : Block) (e i : Nat) : Block := updEddy b e (fun x => { x with matOps := dropAt x.matOps i })

/-- The i-th operation replaced. -/
def setOp (b : Block) (e i : Nat) (o : MatOp) : Block :=
  updEddy b e (fun x => { x with matOps := x.matOps.mapIdx (fun j p => if j = i then (p.1, o) else p) })

/-- The place and value of the first operation that a function picks. -/
def findOp {α : Type} (pick : MatOp → Option α) : Nat → List (Nat × MatOp) → Option (Nat × α)
  | _, [] => none
  | i, p :: r =>
    match pick p.2 with
    | some a => some (i, a)
    | none => findOp pick (i + 1) r

def isTload (o : MatOp) : Option TloadOp :=
  match o with
  | .tload t => some t
  | _ => none

def isMma (o : MatOp) : Option MmaOp :=
  match o with
  | .mma m => some m
  | _ => none

def isDrain (o : MatOp) : Option DrainOp :=
  match o with
  | .drain d => some d
  | _ => none

def isTswap (o : MatOp) : Option (Nat × List Nat) :=
  match o with
  | .tswap pc vs => some (pc, vs)
  | _ => none

/-- The operation is a TLOAD still to load a Vane. -/
def loadsVane (v : Nat) (o : MatOp) : Bool := (isTload o).any (fun t => t.todo.any (fun p => p.1 == v))

/-- The operation is an FP32 TLOAD still to load a Vane. -/
def loadsVaneF32 (v : Nat) (o : MatOp) : Bool :=
  (isTload o).any (fun t => t.wfmt == 0xA && t.todo.any (fun p => p.1 == v))

/-- The operation is a TSWAP still to take effect on a Vane. -/
def swapsVane (v : Nat) (o : MatOp) : Bool := (isTswap o).any (fun t => t.2.contains v)

/-- The operation is an MMA that names a Vane. -/
def usesVane (v : Nat) (o : MatOp) : Bool := (isMma o).any (fun m => m.vanes.contains v)

/-- An instruction joins the operations in flight. -/
def pushOp (x : Eddy) (o : MatOp) : Eddy := { x with matOps := x.matOps ++ [(x.matSeq, o)], matSeq := x.matSeq + 1 }

/-! ## Vanes -/

/-- The physical Vane of a logical one, 15 when there is none (R127). -/
def physVane (x : Eddy) (v : Nat) : Nat := fld x.vaneMap.toNat (4 * v + 3) (4 * v)

/-- The shadow of a Vane, after the operations in flight, holds or will hold a Tile that no TSWAP takes out: a TLOAD then
raises SHADOW_BUSY (R104). -/
def shadowBusy (v : Nat) : List (Nat × MatOp) → Bool → Bool
  | [], busy => busy
  | p :: r, busy =>
    shadowBusy v r (if loadsVane v p.2 then true else if swapsVane v p.2 then false else busy)

/-- Whether the shadow will be FULL, and whether the active Tile will be FP32, once every operation in flight has taken
effect (R104 to R106). -/
def predictVane (v : Nat) : List (Nat × MatOp) → Bool × Bool → Bool × Bool
  | [], st => st
  | p :: r, st =>
    if loadsVaneF32 v p.2 then predictVane v r (false, true)
    else if loadsVane v p.2 then predictVane v r (true, false)
    else if swapsVane v p.2 then predictVane v r (false, false)
    else predictVane v r st

/-- The shadow holds a Tile. -/
def shadowFull (y : Vane) : Bool :=
  match y.shadow with
  | .full _ => true
  | _ => false

/-- The prediction from a Vane's present state. -/
def vaneAhead (x : Eddy) (v : Nat) : Bool × Bool :=
  let y := getVane x v
  predictVane v x.matOps (shadowFull y, y.active.any (fun t => t.fmt == 0xA))

/-- A Tile's weight code in row k, column j. -/
def tileCode (t : Tile) (img k j : Nat) : Nat :=
  let w := fmtBits t.fmt
  fld img ((64 * k + j) * w + (w - 1)) ((64 * k + j) * w)

/-- A Tile's codebook (R102). -/
def tileBook (t : Tile) (img : Nat) : List Nat :=
  let at_ := 8 * (elemBytes t.fmt 4096 + 64 * scaleRun t.sgran t.sfmt)
  (List.range 16).map (fun i => fld img (at_ + 8 * i + 7) (at_ + 8 * i))

/-- The number a block scale stands for in a Vane (R112, R134). -/
def scaleNum (f c : Nat) : Value :=
  match readScale f false c 0 with
  | .lin s _ => s
  | _ => .nan

/-- A Tile's block scale for block row r, column j; 1 when it has none. -/
def tileScale (t : Tile) (img r j : Nat) : Value :=
  if t.sgran = 0 then .fin false 1 1
  else
    let w := scaleBytes t.sfmt
    let at_ := 8 * (elemBytes t.fmt 4096 + (64 * r + j) * w)
    scaleNum t.sfmt (fld img (at_ + 8 * w - 1) at_)

/-- An integer format. -/
def isIntFmt (f : Nat) : Bool := f == 0 || f == 1 || f == 4 || f == 5

/-- The integer of a code of an integer format. -/
def intCode (f c : Nat) : Int := if f = 0 then signed 4 c else if f = 4 then signed 8 c else (c : Int)

/-- The column sum of stored codes over the valid rows (R103). -/
def colSum (t : Tile) (img j : Nat) : Int :=
  if isIntFmt t.fmt && decide (j < t.nv) then
    intSum ((List.range t.kv).map (fun k => intCode t.fmt (tileCode t img k j)))
  else 0

/-- A Tile enters a Vane: an FP32 Tile becomes active at once, another fills the shadow; CSUM takes its column sums
(R103, R104, R106, R125); an accumulated sum that 64 bits do not hold is open (log 24). -/
def loadTile (y : Vane) (t : Tile) (csacc : Bool) : Vane :=
  let img := leNat t.image
  let sums := (List.range 64).foldl (fun m j =>
    let old : DWord := if csacc then Table.get 0 y.csum j else 0
    Table.put 0 m j (BitVec.ofNat 64 (intResult (old.toInt + colSum t img j)).1)) y.csum
  let y := { y with csum := sums, taint := t.poison || (csacc && y.taint) }
  if t.fmt = 0xA then { y with active := some t, shadow := .empty } else { y with shadow := .full t }

/-! ## Effects that need no command of their own -/

/-- A TLOAD begins on the Vanes that are free for it (R104, R106); one that ends an FP32 Tile lets the rows of earlier MMAs
enter first, since their products use that Tile (R40; log 55). -/
def beginLoads (x : Eddy) (before : List (Nat × MatOp)) (t : TloadOp) : Eddy × TloadOp :=
  t.todo.foldl (fun (r : Eddy × TloadOp) p =>
    let v := p.1
    let y := getVane r.1 v
    let held := before.any (fun q => swapsVane v q.2 || loadsVane v q.2 || ((t.wfmt == 0xA || y.active.any (fun a => a.fmt == 0xA)) && usesVane v q.2))
    if r.2.begun.contains v || held || y.shadow != .empty then r
    else
      let drop := t.wfmt == 0xA || y.active.any (fun a => a.fmt == 0xA)
      (putVane r.1 v { y with shadow := .loading, active := if drop then none else y.active },
        { r.2 with begun := r.2.begun ++ [v] })) (x, t)

/-- A TLOAD takes bytes from its feed for the Vane that is next in rank order (R104, R185). -/
def pullFeed (b : Block) (e : Nat) (t : TloadOp) : Block × TloadOp :=
  match t.todo with
  | [] => (b, t)
  | (v, _) :: _ =>
    if !t.fromFeed || !t.begun.contains v then (b, t)
    else
      let i := 4 * (e / 16) + t.feed
      let f := getFeed b i
      let need := imageBytes t.wfmt t.sgran t.sfmt - t.got.length
      let take := f.bytes.take need
      let f' := { f with bytes := f.bytes.drop need }
      let f'' := if !f'.live && f'.bytes.isEmpty then Feed.fresh else f'
      (putFeed b i f'', { t with got := t.got ++ take.map (·.1), gotPoison := t.gotPoison || take.any (·.2) })

/-- The feed can no longer supply the image a TLOAD waits for (R185). -/
def feedFails (b : Block) (e : Nat) (t : TloadOp) : Bool :=
  let f := getFeed b (4 * (e / 16) + t.feed)
  match t.todo with
  | [] => false
  | (v, _) :: _ =>
    t.fromFeed && t.begun.contains v && decide (t.got.length < imageBytes t.wfmt t.sgran t.sfmt) &&
      (!f.bound || f.eddy != e % 16 || !f.live)

/-- A cleared Slot of a mode (R108). -/
def clearSlot (x : Eddy) (i mode : Nat) : Eddy :=
  { putSlot x i { Slot.fresh with mode := mode } with
    accErr := x.accErr.filter (fun p => p.1 / 16 != i) }

/-- CSUM as CSAVE writes it (R115, R125). -/
def csumBytes (y : Vane) : Marked :=
  (List.range 64).flatMap (fun j => (leBytes 8 (Table.get 0 y.csum j).toNat).map (fun c => (c, y.taint)))

/-- An earlier TLOAD draws from the same feed. -/
def feedTaken (before : List (Nat × MatOp)) (feed : Nat) : Bool :=
  before.any (fun p => (isTload p.2).any (fun t => t.fromFeed && t.feed == feed))

/-- The effects that follow on their own from the operations that the unit has taken up, in program order: loads begin,
feeds are drawn from (each by its first TLOAD), clears and CSAVE take effect once nothing earlier stands before them. -/
def settleOps (e : Nat) : List (Nat × MatOp) → List (Nat × MatOp) → Block → Block
  | before, [], b => updEddy b e (fun x => { x with matOps := before })
  | before, (n, o) :: r, b =>
    if !takenUp (getEddy b e) n then settleOps e (before ++ [(n, o)]) r b
    else match o with
    | .tload t =>
      let p := beginLoads (getEddy b e) before t
      let q := if feedTaken before t.feed then (putEddy b e p.1, p.2) else pullFeed (putEddy b e p.1) e p.2
      if !feedTaken before t.feed && feedFails q.1 e q.2 then taskFault q.1 e t.pc 0x307
      else settleOps e (before ++ [(n, .tload q.2)]) r q.1
    | .sclr s k mode =>
      if before.any (fun p => (matSlots p.2).any (fun i => decide (s ≤ i + 1) && decide (i < s + k))) then
        settleOps e (before ++ [(n, o)]) r b
      else
        settleOps e before r (updEddy b e (fun x => (List.range k).foldl (fun x i => clearSlot x (s + i) mode) x))
    | .csave _ lv a =>
      if before.any (fun p => loadsVane lv p.2) || leeClash (getEddy b e) before [] [(a, 512)] then
        settleOps e (before ++ [(n, o)]) r b
      else settleOps e before r (leeWriteBytes b (e / 16) a (csumBytes (getVane (getEddy b e) lv)))
    | o' => settleOps e (before ++ [(n, o')]) r b

/-- Every effect that now follows on its own. -/
def settle (b : Block) (e : Nat) : Block := settleOps e [] (getEddy b e).matOps b

/-- A MAT instruction of a place in its unit's queue. -/
def matEntry (n : Nat) : MatOp → QEntry
  | .mma _ => .mma n
  | _ => .mat n

/-- A MAT instruction enters the MAT queue and the operations in flight; its effects begin once the unit takes it up
(R74). -/
def acceptMat (b : Block) (e : Nat) (o : Option MatOp) : Block :=
  updEddy b e (fun x =>
    match o with
    | some p => pushOp (pushQueue x 4 (matEntry x.matSeq p)) p
    | none => pushQueue x 4 .plain)

/-! ## SCLR, TLOAD, TSWAP, CSAVE -/

/-- A count of at most 8,192 as SCLR and DRAIN form it. -/
def slotCount (x : Eddy) (w creg csrc : Nat) : Except Nat Nat :=
  if bit w csrc then (ctlReg x (fld w (creg + 5) creg)).map (fun v => v % 2 ^ 14) else .ok (fld w 13 0)

/-- R108: SCLR clears a run of Slots in a mode. -/
def bodySclr : Body := fun b e w =>
  let x := getEddy b e
  (slotCount x w 94 100).bind (fun n =>
    let s := fld w 115 103
    let mode := fld w 102 101
    if n = 0 then .ok (acceptMat b e none, .next)
    else if 8192 < s + n then .error 0x38A
    else if isWide mode && s % 2 == 1 then .error 0x302
    else .ok (acceptMat b e (some (.sclr s n mode)), .next))

def execSclr (e : Nat) (s : State) := onBlock (issue 4 0x0 bodySclr e) s

/-- A logical Vane of a VMASK maps to no physical Vane (R128). -/
def vaneAbsent (x : Eddy) (vs : List Nat) : Bool := vs.any (fun v => decide (8 < physVane x v))

/-- R103, R104: TLOAD loads an image into each named Vane. -/
def bodyTload : Body := fun b e w =>
  let x := getEddy b e
  let o := tloadOf x w
  let vs := o.todo.map (·.1)
  let fd := getFeed b (4 * (e / 16) + o.feed)
  (if o.fromFeed then .ok 0 else ctlReg x (fld w 102 97)).bind (fun _ =>
    if vaneAbsent x vs then .error 0x309
    else if vs.any (fun v => shadowBusy v x.matOps ((getVane x v).shadow != .empty)) then .error 0x308
    else if o.fromFeed && (!fd.bound || fd.eddy != e % 16) then .error 0x307
    else
      (if o.fromFeed then .ok ()
       else if o.addr % 16 != 0 then .error 0x385
       else checkOwn b (e / 16) false o.addr (imageBytes o.wfmt o.sgran o.sfmt * vs.length)).map (fun _ =>
        (acceptMat b e (some (.tload o)), .next)))

def execTload (e : Nat) (s : State) := onBlock (issue 4 0x1 bodyTload e) s

/-- R104, R106: the load of a Vane of the first TLOAD that names it completes; its image is read once earlier writes to
it are in (R47). -/
def tileLoadComplete (e v : Nat) (b : Block) : Block :=
  let x := getEddy b e
  match findOp (fun o => if loadsVane v o then isTload o else none) 0 x.matOps with
  | none => b
  | some (i, t) =>
    let size := imageBytes t.wfmt t.sgran t.sfmt
    let rank := ((t.todo.find? (fun p => p.1 == v)).map (·.2)).getD 0
    let first := (t.todo.head?.map (·.1)) == some v
    if !t.begun.contains v then b
    else if t.fromFeed && (!first || t.got.length != size) then b
    else if !t.fromFeed && leeClash x (x.matOps.take i) [imageRange t rank] [] then b
    else
      let r := if t.fromFeed then (t.got.map (fun y => (y, t.gotPoison)), b) else leeBytesAt b (t.addr + rank * size) size
      let r := vaneIn r.2 e r.1
      let tile : Tile :=
        { fmt := t.wfmt, kv := t.kv, nv := t.nv, sgran := t.sgran, sfmt := t.sfmt
          image := r.1.map (·.1), poison := r.1.any (·.2) }
      let b := updEddy r.2 e (fun x => putVane x v (loadTile (getVane x v) tile t.csacc))
      let todo := t.todo.filter (fun p => p.1 != v)
      let t' := { t with todo := todo, begun := t.begun.filter (· != v)
                         got := if t.fromFeed then [] else t.got, gotPoison := false }
      settle (if todo.isEmpty then dropOp b e i else setOp b e i (.tload t')) e

def execTileLoadComplete (e v : Nat) (s : State) := onBlock (clockedStep (tileLoadComplete e v)) s

/-- R105: TSWAP asks for the shadow Tile of each named Vane to become active. -/
def bodyTswap : Body := fun b e w =>
  let x := getEddy b e
  let vs := setBits 8 (fld w 115 108)
  if vaneAbsent x vs then .error 0x309
  else if vs.any (fun v => !(vaneAhead x v).1 || (vaneAhead x v).2) then .error 0x303
  else .ok (acceptMat b e (some (.tswap x.pc vs)), .next)

def execTswap (e : Nat) (s : State) := onBlock (issue 4 0x2 bodyTswap e) s

/-- The shadow Tile becomes active, and the shadow EMPTY. -/
def swapVane (y : Vane) : Vane :=
  match y.shadow with
  | .full t => { y with active := some t, shadow := .empty }
  | _ => y

/-- The Vanes on which a TSWAP behind others can take effect: the unit has taken it up, the shadow is FULL, and no earlier
instruction has still to use, load or swap the Vane (R105). -/
def swapReady (x : Eddy) (before : List (Nat × MatOp)) (n : Nat) (vs : List Nat) : List Nat :=
  if !takenUp x n then []
  else vs.filter (fun v => shadowFull (getVane x v) &&
    !before.any (fun p => usesVane v p.2 || loadsVane v p.2 || swapsVane v p.2))

/-- The first TSWAP that is ready on a Vane: its place in the list, the instruction and the ready Vanes. -/
def firstSwap (x : Eddy) (before : List (Nat × MatOp)) : List (Nat × MatOp) → Option (Nat × Nat × List Nat × List Nat)
  | [] => none
  | p :: r =>
    match isTswap p.2 with
    | some (pc, vs) =>
      let ready := swapReady x before p.1 vs
      if ready.isEmpty then firstSwap x (before ++ [p]) r else some (before.length, pc, vs, ready)
    | none => firstSwap x (before ++ [p]) r

/-- R105: the first TSWAP that can takes effect on every Vane that is ready for it. -/
def tswapEffect (e : Nat) (b : Block) : Block :=
  let x := getEddy b e
  match firstSwap x [] x.matOps with
  | none => b
  | some (i, pc, vs, ready) =>
    let b := updEddy b e (fun x => ready.foldl (fun x v => putVane x v (swapVane (getVane x v))) x)
    let rest := vs.filter (fun v => !ready.contains v)
    settle (if rest.isEmpty then dropOp b e i else setOp b e i (.tswap pc rest)) e

def execTswapEffect (e : Nat) (s : State) := onBlock (clockedStep (tswapEffect e)) s

/-- R115: CSAVE writes the column sums of a logical Vane. -/
def bodyCsave : Body := fun b e w =>
  let x := getEddy b e
  let lv := fld w 115 113
  (ctlReg x (fld w 112 107)).bind (fun a =>
    if vaneAbsent x [lv] then .error 0x309
    else if a % 16 != 0 then .error 0x385
    else (checkOwn b (e / 16) true a 512).map (fun _ =>
      (acceptMat b e (some (.csave x.pc lv a)), .next)))

def execCsave (e : Nat) (s : State) := onBlock (issue 4 0x6 bodyCsave e) s

/-! ## MMA -/

/-- Every row of an MMA lies where R111 allows. -/
def checkMmaRows (b : Block) (c : Nat) (o : MmaOp) : Except Nat Unit :=
  (matReads (.mma o)).foldl (fun r p => r.bind (fun _ =>
    if p.1 % 16 != 0 && p.2 % 16 == 0 then .error 0x385 else checkOwn b c false p.1 p.2)) (.ok ())

/-- R111: MMA streams M rows through the named Vanes. -/
def bodyMma : Body := fun b e w =>
  let x := getEddy b e
  let o := mmaOf x w
  (if bit w 41 then ctlReg x (fld w 40 35) else .ok 0).bind (fun _ =>
  (ctlReg x (fld w 103 98)).bind (fun a => (ctlReg x (fld w 58 53)).bind (fun _ =>
  (if o.asgran = 0 then .ok 0 else ctlReg x (fld w 47 42)).bind (fun _ =>
    if vaneAbsent x o.vanes then .error 0x309
    else if o.rows = 0 || o.vanes.isEmpty then .ok (acceptMat b e none, .next)
    else if o.pitch % 16 != 0 || o.voff % 16 != 0 || a % 16 != 0 then .error 0x385
    else if o.asgran != 0 && o.voff != 0 then .error 0x380
    else if 8192 ≤ mmaSlot o (o.rows - 1) (o.vanes.length - 1) then .error 0x38A
    else (checkMmaRows b (e / 16) o).map (fun _ => (acceptMat b e (some (.mma o)), .next))))))

def execMma (e : Nat) (s : State) := onBlock (issue 4 0x3 bodyMma e) s

/-- The pairings of R100. -/
def pairingOk (wf af : Nat) : Bool :=
  (isIntFmt wf && isIntFmt af) ||
    ((wf == 2 || wf == 3 || wf == 6 || wf == 7) && (af == 2 || af == 6 || af == 7)) ||
    (wf == af && (wf == 8 || wf == 9 || wf == 0xA))

/-- An FP32 number split into BF16 halves; a number that is not finite stays whole in the high part (R101; log 26). -/
def splitF32 (x : Value) : Value × Value :=
  let hi := fpDecode 8 (fpConvert 8 .near false x).code
  if x.isFin then (hi, fpDecode 8 (fpConvert 8 .near false (Value.sub x hi)).code) else (x, .zero)

/-- The product of a pass; a pair that is not finite counts in the last pass only (log 26). -/
def passProduct (last : Bool) (x y a w : Value) : Value :=
  if x.isFin && y.isFin then Value.mul a w else if last then Value.mul x y else .zero

/-- The tree's sum of BF16 or FP16 products; into FP32C the exact sum where the roundings of the levels would pass one
third of R119's bound (log 16). -/
def halfTerm (comp : Bool) (ps : List Value) : Value :=
  let s := treeSum ps
  let x := exactSum ps
  if comp && s.isFin &&
      Value.lt (Value.mul (exactSum (ps.map Value.abs)) (.fin false 1 (2 ^ 24))) (Value.sub s x).abs then x
  else s

/-- The numbers that one row adds into a column, into FP32C or not: one, or three for FP32, in order (R98, R101, R112). -/
def columnTerms (comp : Bool) (t : Tile) (img : Nat) (book : List Nat) (af : Nat) (row : List Nat) (asc : Nat → Value) (agran j : Nat) :
    List Value :=
  let ks := List.range t.kv
  let wt (k : Nat) := elemValue t.fmt book (tileCode t img k j)
  let av (k : Nat) := elemValue af [] (row.getD k 0)
  if t.fmt = 0xA then
    let parts := ks.map (fun k => (av k, wt k, splitF32 (av k), splitF32 (wt k)))
    [treeSum (parts.map (fun p => passProduct false p.1 p.2.1 p.2.2.1.2 p.2.2.2.1)),
     treeSum (parts.map (fun p => passProduct false p.1 p.2.1 p.2.2.1.1 p.2.2.2.2)),
     treeSum (parts.map (fun p => passProduct true p.1 p.2.1 p.2.2.1.1 p.2.2.2.1))]
  else if t.fmt = 8 || t.fmt = 9 then [halfTerm comp (ks.map (fun k => Value.mul (av k) (wt k)))]
  else
    let g := granRows (if t.sgran = 0 then agran else t.sgran)
    if t.sgran = 0 && agran = 0 then [exactSum (ks.map (fun k => Value.mul (av k) (wt k)))]
    else
      [exactSum ((List.range (64 / g)).map (fun r =>
        Value.mul (exactSum ((ks.filter (fun k => k / g == r)).map (fun k => Value.mul (av k) (wt k))))
          (Value.mul (tileScale t img r j) (asc r))))]

/-- What an add into a pair may lose: 2^-47 of the new sum, which keeps 2^24 adds within two thirds of R119's bound (log
16). -/
def compLimit (x : Value) : Value := Value.mul x.abs (.fin false 1 (2 ^ 47))

/-- The compensated pair after a term is added (R107, R119): ±Inf on overflow, else the proposed pair when it stays within
the limit, else the rounded sum and the rounded rest (log 16). -/
def compAdd (h l : Word) (t : Value) : Word × Word :=
  let x := Value.add (Value.add (ofF32 h) (ofF32 l)) t
  let r := toF32 x
  match t, ofF32 r with
  | .fin s n d, .fin _ _ _ =>
    let c := Config.compPair h l s n d
    let y := Value.add (ofF32 c.1) (ofF32 c.2)
    if y.isFin && !Value.lt (compLimit x) (Value.sub y x).abs then c
    else (r, toF32 (Value.sub x (ofF32 r)))
  | _, _ => (r, 0)

/-- The integer in an INT32 or INT64 column. -/
def intEntry (x : Eddy) (i j : Nat) : Int :=
  let t := getSlot x i
  let lo := (Table.get 0 t.entries j).toNat
  if t.mode = 0 then signed 32 lo else signed 64 (lo + (Table.get 0 (getSlot x (i + 1)).entries j).toNat * 2 ^ 32)

/-- An entry of a column written. -/
def setEntry (x : Eddy) (i j : Nat) (v : Word) : Eddy :=
  let t := getSlot x i
  putSlot x i { t with entries := Table.put 0 t.entries j v }

/-- The terms of one column added into a Slot, in its mode (R107, R110). -/
def addColumn (x : Eddy) (i j : Nat) (terms : List Value) : Eddy :=
  let t := getSlot x i
  match t.mode with
  | 2 => setEntry x i j (terms.foldl (fun a p => toF32 (Value.add (ofF32 a) p)) (Table.get 0 t.entries j))
  | 3 =>
    let r := terms.foldl (fun a p => compAdd a.1 a.2 p)
      (Table.get 0 t.entries j, Table.get 0 (getSlot x (i + 1)).entries j)
    setEntry (setEntry x i j r.1) (i + 1) j r.2
  | m =>
    let w := if m = 0 then 32 else 64
    let v := intEntry x i j + intSum (terms.map (roundInt .near))
    let c := max (-(2 : Int) ^ (w - 1)) (min ((2 : Int) ^ (w - 1) - 1) v)
    let u := unsignedOf w c
    let x := setEntry x i j (BitVec.ofNat 32 u)
    let x := if m = 0 then x else setEntry x (i + 1) j (BitVec.ofNat 32 (u / 2 ^ 32))
    if c = v then x else putSlot x i { getSlot x i with sat := true }

/-- The metadata of a Slot after a row (R109, R110, R124, R125). -/
def addMeta (t : Slot) (tile : Tile) (af : Nat) (row : List Nat) (poison mismatch : Bool) : Slot :=
  let first := t.k == 0
  let k := min (t.k + tile.kv) (2 ^ 31 - 1)
  let isInt := isIntFmt tile.fmt && isIntFmt af
  let rs := signed 64 t.rowsum.toNat + (if isIntFmt af then intSum ((row.take tile.kv).map (intCode af)) else 0)
  let rc := max (-(2 : Int) ^ 63) (min ((2 : Int) ^ 63 - 1) rs)
  { t with
    k := k
    nv := if first then tile.nv else t.nv
    intp := if first then isInt else t.intp
    rowsum := BitVec.ofInt 64 rc
    sat := t.sat || rc != rs
    long := t.long || (t.mode == 2 && decide (2 ^ 20 < k)) || (t.mode == 3 && decide (2 ^ 30 < k))
    poison := t.poison || poison || tile.poison
    resfail := t.resfail || mismatch }

/-- A Slot, or a stride that a second reference uses, is odd in a wide mode (R107; log 149). -/
def oddPair (mode i : Nat) (strides : List (Nat × Nat)) : Bool :=
  isWide mode && (i % 2 == 1 || strides.any (fun p => decide (1 < p.1) && p.2 % 2 == 1))

/-- The fault of adding a row of a Tile into Slot i in a mode, which holds products of nv columns or none (R100, R107, R109,
R112, R128). -/
def addFault (mode : Nat) (nv : Option Nat) (tile : Tile) (o : MmaOp) (i : Nat) : Option Nat :=
  let scaled := tile.sgran != 0 || o.asgran != 0
  if !pairingOk tile.fmt o.afmt then some 0x301
  else if scaled && (tile.fmt == 1 || tile.fmt == 5 || o.afmt == 1 || o.afmt == 5 || decide (7 < o.afmt)) then some 0x301
  else if tile.sgran != 0 && o.asgran != 0 && tile.sgran != o.asgran then some 0x301
  else if decide (mode ≤ 1) && (scaled || !isIntFmt tile.fmt) then some 0x301
  else if oddPair mode i [(o.rows, o.mstr), (o.vanes.length, o.vstr)] then some 0x302
  else if nv.any (· != tile.nv) then some 0x304
  else none

/-- The NV that a Slot's products have, if it holds any. -/
def slotNv (t : Slot) : Option Nat := if t.k = 0 then none else some t.nv

/-- The first fault that the rows of an MMA will meet, behind earlier instructions: each pair of a Vane and a Slot in row
order; own names the Slots that the MMA itself has set an NV in. -/
def mmaFaultAt (x : Eddy) (before : List (Nat × MatOp)) (o : MmaOp) : List (Nat × Nat) → List (Nat × Nat) → Option Nat
  | [], _ => none
  | (v, i) :: r, own =>
    match (getVane x v).active with
    | none => some 0x303
    | some tile =>
      let a := before.foldl (fun a p => aheadStep i a p.2) (aheadNow x i)
      let nv := match own.find? (fun p => p.1 == i) with
        | some p => some p.2
        | none => if a.used then some a.nv else none
      match addFault a.mode nv tile o i with
      | some c => some c
      | none => mmaFaultAt x before o r ((i, nv.getD tile.nv) :: own)

/-- An MMA that would fault at any row faults before its first, so that it takes no effect (R342). -/
def mmaFault (x : Eddy) (before : List (Nat × MatOp)) (o : MmaOp) : Option Nat :=
  mmaFaultAt x before o
    ((List.range o.rows).flatMap (fun m => o.vanes.zipIdx.map (fun p => (p.1, mmaSlot o m p.2)))) []

/-- A residue mismatch: the count of the physical Vane, and its event once per job (R124). -/
def countResidue (b : Block) (e v : Nat) : Block :=
  let x := getEddy b e
  let p := physVane x v
  let b := putEddy b e { x with residue := Table.put 0 x.residue p (satAdd 16 (Table.get 0 x.residue p) 1)
                                resRose := setInsert x.resRose p }
  reportOnce b e 0x305 (0x305 + 0x1000 * (p + 1))

/-- The row of one Vane added into its Slot. -/
def addRow (b : Block) (e : Nat) (o : MmaOp) (tile : Tile) (i : Nat) (row : List Nat) (asc : Nat → Value)
    (poison mismatch : Bool) (v : Nat) : Block :=
  let img := leNat tile.image
  let book := if tile.fmt = 3 then tileBook tile img else []
  let b := updEddy b e (fun x =>
    let x := (List.range tile.nv).foldl (fun x j =>
      addColumn x i j (columnTerms ((getSlot x i).mode == 3) tile img book o.afmt row asc o.asgran j)) x
    putSlot x i (addMeta (getSlot x i) tile o.afmt row poison mismatch))
  if mismatch then countResidue b e v else b

/-- The rows of all named Vanes, in rank order, each with the read of its Slot (R98, R338); a fault ends it. -/
def addRows (e : Nat) (o : MmaOp) (m : Nat) (scales : Marked) (mism : BitVec 8) :
    List (Nat × Nat) → Block → Except Nat Block
  | [], b => .ok b
  | (v, j) :: r, b =>
    let x := getEddy b e
    match (getVane x v).active with
    | none => .error 0x303
    | some tile =>
      let i := mmaSlot o m j
      let b := readSlot b e i
      let b := if isWide (getSlot (getEddy b e) i).mode then readSlot b e (i + 1) else b
      match addFault (getSlot x i).mode (slotNv (getSlot x i)) tile o i with
      | some c => .error c
      | none =>
        let d := leeBytesAt b (mmaRowAddr o m j) (elemBytes o.afmt 64)
        let d := vaneIn d.2 e d.1
        let row := (rowElems o.afmt 64 d.1).map (·.1)
        let w := scaleBytes o.asfmt
        let asc (k : Nat) : Value :=
          if o.asgran = 0 then .fin false 1 1 else scaleNum o.asfmt (markedNat ((scales.drop (k * w)).take w)).1
        addRows e o m scales mism r
          (addRow d.2 e o tile i row asc (d.1.any (·.2) || scales.any (·.2)) (mism.getLsbD v) v)

/-- A row may enter: no earlier TSWAP or FP32 load of its Vanes, no earlier drain or clear of its Slots and no earlier
write of its bytes stands before it (R47, R104 to R106, R113, R117). -/
def rowMayEnter (x : Eddy) (before : List (Nat × MatOp)) (o : MmaOp) : Bool :=
  !before.any (fun p =>
    o.vanes.any (fun v => swapsVane v p.2 || loadsVaneF32 v p.2) ||
      (matSlots p.2).any (fun i => (slotAndPair x i).any (fun k =>
        (List.range o.vanes.length).any (fun j => (slotAndPair x (mmaSlot o o.next j)).contains k)))) &&
  !leeClash x before (mmaRowReads o o.next) []

/-- The place of the i-th operation in flight. -/
def opPlace (x : Eddy) (i : Nat) : Nat := ((x.matOps[i]?).map (·.1)).getD 0

/-- The unit has taken up an MMA, or takes it up with this row: it stands at the head of the queue (R74). -/
def mmaTakesUp (x : Eddy) (n : Nat) : Bool := takenUp x n || (queueOf x 4).head? == some (.mma n)

/-- R98, R109, R113: the next row of the first MMA enters its Vanes and is added into its Slots; mism tells the Vanes
whose residue check fails. The first row takes the MMA up (R74). -/
def rowEntry (e : Nat) (mism : BitVec 8) (b : Block) : Block :=
  let x := getEddy b e
  match findOp isMma 0 x.matOps with
  | none => b
  | some (i, o) =>
    if !mmaTakesUp x (opPlace x i) || !rowMayEnter x (x.matOps.take i) o then b
    else match if o.next = 0 then mmaFault x (x.matOps.take i) o else none with
    | some c => taskFault b e o.pc c
    | none =>
      let b := updEddy b e (fun x => setQueue x 4 ((queueOf x 4).filter (fun q => q != .mma (opPlace x i))))
      let run := scaleRun o.asgran o.asfmt
      let sc := if o.asgran = 0 then ([], b) else leeBytesAt b (o.asaddr + o.next * run) run
      match addRows e o o.next sc.1 mism o.vanes.zipIdx sc.2 with
      | .error c => taskFault b e o.pc c
      | .ok b => settle (if o.rows ≤ o.next + 1 then dropOp b e i else setOp b e i (.mma { o with next := o.next + 1 })) e

def execRowEntry (e : Nat) (mismatch : BitVec 8) (s : State) := onBlock (clockedStep (rowEntry e mismatch)) s

/-! ## DRAIN -/

/-- R115: DRAIN and DRAINCLR ask for a run of Slots to be read and written out. -/
def bodyDrain (clear : Bool) : Body := fun b e w =>
  let x := getEddy b e
  let o := drainOf x clear w
  (slotCount x w 35 41).bind (fun n =>
  (ctlReg x (fld w 89 84)).bind (fun dst => (ctlReg x (fld w 82 77)).bind (fun desc =>
  (if o.toPort then .ok 0 else ctlReg x (fld w 63 58)).bind (fun _ =>
  (if o.asv then ctlReg x (fld w 70 65) else .ok 0).bind (fun asa =>
    if 8192 < n then .error 0x38A
    else if n = 0 then .ok (acceptMat b e none, .next)
    else if 8192 ≤ o.slot + (n - 1) * o.sstr then .error 0x38A
    else if o.toPort && (!portUp b o.port || o.cls == 1) then .error 0x306
    else if o.toPort && seamBars b (portHalf o.port) (curHalf (e / 16)) then .error seamLost
    else if desc % 16 != 0 || (!o.toPort && (dst % 16 != 0 || o.pitch % 16 != 0)) || (o.toPort && o.off % 16 != 0) then
      .error 0x385
    else
      (checkOwn b (e / 16) false desc 1296).bind (fun _ =>
      (if o.asv then checkOwn b (e / 16) false asa (8 * n) else .ok ()).bind (fun _ =>
      (if o.toPort then .ok () else checkRows b (e / 16) true dst o.pitch 1 n).map (fun _ =>
        (acceptMat b e (some (.drain o)), .next)))))))))

def execDrain (e : Nat) (s : State) := onBlock (issue 4 0x4 (bodyDrain false) e) s
def execDrainclr (e : Nat) (s : State) := onBlock (issue 4 0x5 (bodyDrain true) e) s

/-- A field of the drain descriptor (R116). -/
def descNat (l : Marked) (off n : Nat) : Nat := (markedNat ((l.drop off).take n)).1

/-- The accumulator value of a column (R116): an integer, an FP32 number, or the exact sum of an FP32C pair. -/
def accValue (x : Eddy) (i j : Nat) : Value :=
  let t := getSlot x i
  if t.mode ≤ 1 then .ofInt (intEntry x i j)
  else
    let h := ofF32 (Table.get 0 t.entries j)
    if t.mode = 3 then
      (if h.isFin then Value.add h (ofF32 (Table.get 0 (getSlot x (i + 1)).entries j)) else h)
    else h

/-- v_j and y_j of R116, before the conversion. -/
def drainValue (x : Eddy) (i j : Nat) (d : Marked) (flags : Nat) (sa : Value) (za : Int) : Word :=
  let t := getSlot x i
  let zb := signed 32 (descNat d (0x200 + 4 * j) 4)
  let cs := signed 64 (descNat d (0x300 + 8 * j) 8)
  let corr : Int := -zb * signed 64 t.rowsum.toNat - za * cs + (t.k : Int) * za * zb
  let v := if bit flags 2 then Value.add (accValue x i j) (.ofInt corr) else accValue x i j
  let scaled := if bit flags 0 then
      Value.mul (Value.mul sa (ofF32 (BitVec.ofNat 32 (descNat d (4 * j) 4)))) v
    else v
  toF32 (Value.add scaled (if bit flags 1 then ofF32 (BitVec.ofNat 32 (descNat d (0x100 + 4 * j) 4)) else .zero))

/-- The bytes of an output row, and its counts of NaN and saturated conversions (R115, R116). -/
def drainRow (seed : DWord) (x : Eddy) (e i : Nat) (o : DrainOp) (d : Marked) (flags : Nat) (sa : Value) (za : Int) :
    List Byte × Nat × Nat :=
  let t := getSlot x i
  if o.dfmt = 0xB then
    ((List.range t.nv).flatMap (fun j =>
      leBytes 4 (Table.get 0 t.entries j).toNat ++
        (if isWide t.mode then leBytes 4 (Table.get 0 (getSlot x (i + 1)).entries j).toNat else [])), 0, 0)
  else
    let cs := (List.range t.nv).map (fun j =>
      fpConvert o.dfmt (rndOf o.rnd seed e 2 x.drawDrain j) false (ofF32 (drainValue x i j d flags sa za)))
    (cs.flatMap (fun c => leBytes (elemBytes o.dfmt 1) c.code), (cs.filter (·.nanc)).length, (cs.filter (·.sat)).length)

/-- The bytes of a drain to a port gathered into granules. -/
def gatherPort (o : DrainOp) (row : List Byte) (poison : Bool) : DrainOp :=
  let l := o.tail ++ row
  let n := l.length / 16
  let full := chunks n 16 (l.take (16 * n))
  { o with tail := l.drop (16 * n)
           tailPoison := poison || (n == 0 && o.tailPoison && !o.tail.isEmpty)
           grans := o.grans ++ full.zipIdx.map (fun p => (granuleOf p.1, poison || (p.2 == 0 && o.tailPoison && !o.tail.isEmpty))) }

/-- A finished drain to a port sends its message, the last granule filled with zero bytes (R320). -/
def sendDrain (b : Block) (e : Nat) (o : DrainOp) : Block :=
  let l := o.grans ++ (if o.tail.isEmpty then [] else [(granuleOf o.tail, o.tailPoison)])
  let b := updPort b o.port (fun p => sendRun (l.length + 1) p o.cls (.drain e) 0 o.region o.off l)
  let bad := (l.filter (·.2)).length
  updCur b (e / 16) (fun c => { c with poisonCount := satAdd 32 c.poisonCount bad })

/-- The flags a read Slot leaves: LONG and SAT drains with their events (R118). -/
def noteFlags (b : Block) (e : Nat) (t : Slot) : Block :=
  let b := updEddy b e (fun x =>
    { x with longDrains := satAdd 16 x.longDrains (b2n t.long), satDrains := satAdd 16 x.satDrains (b2n t.sat) })
  let b := if t.long then reportOnce b e 0x310 0x310 else b
  if t.sat then reportOnce b e 0x311 0x311 else b

/-- The fault of a Slot that a drain reads (R107, R116, R124). -/
def drainFault (t : Slot) (o : DrainOp) (i flags : Nat) : Option Nat :=
  if t.resfail then some 0x305
  else if oddPair t.mode i [(o.rows, o.sstr)] then some 0x302
  else if bit flags 2 && !t.intp then some 0x301
  else none

/-- The first fault that the Slots of a drain will meet, by its descriptor read without effect (R342): it then takes no
effect. -/
def drainStops (b : Block) (e : Nat) (o : DrainOp) : Option Nat :=
  let x := getEddy b e
  let flags := descNat (leeBytesAt b o.desc 1296).1 0x508 4
  (List.range o.rows).findSome? (fun m =>
    let i := o.slot + m * o.sstr
    match drainFault (getSlot x i) o i flags with
    | some c => some c
    | none =>
      if o.toPort then none
      else match checkOwn b (e / 16) true (o.addr + m * o.pitch)
          (drainRowBytes o.dfmt (getSlot x i).mode (getSlot x i).nv) with
        | .error c => some c
        | .ok _ => none)

/-- One Slot of a drain read, converted and written out. -/
def drainSlot (b : Block) (e k : Nat) (o : DrainOp) : Except Nat Block :=
  let i := o.slot + o.next * o.sstr
  let b := readSlot b e i
  let b := if isWide (getSlot (getEddy b e) i).mode then readSlot b e (i + 1) else b
  let d := leeBytesAt b o.desc 1296
  let a := if o.asv then leeBytesAt d.2 (o.asaddr + 8 * o.next) 8 else ([], d.2)
  let b := a.2
  let x := getEddy b e
  let t := getSlot x i
  let flags := descNat d.1 0x508 4
  match drainFault t o i flags with
  | some c => .error c
  | none =>
    let sa := ofF32 (BitVec.ofNat 32 (if o.asv then descNat a.1 0 4 else descNat d.1 0x500 4))
    let za := signed 32 (if o.asv then descNat a.1 4 4 else descNat d.1 0x504 4)
    let r := drainRow b.job.seed x e i o d.1 flags sa za
    let poison := t.poison || d.1.any (·.2) || a.1.any (·.2) ||
      (isWide t.mode && (getSlot x (i + 1)).poison)
    let row := r.1
    (if o.toPort then .ok () else checkOwn b (e / 16) true (o.addr + o.next * o.pitch) row.length).map (fun _ =>
      let b := if o.toPort then b
        else leeWriteBytes b (e / 16) (o.addr + o.next * o.pitch) (row.map (fun y => (y, poison)))
      let b := countConv (noteFlags b e t) e r.2.1 r.2.2
      let b := updEddy b e (fun x =>
        let x := { x with drawDrain := if o.rnd = 0 || o.dfmt = 0xB then x.drawDrain else x.drawDrain + t.nv }
        if o.clear then
          (let x := clearSlot x i t.mode
           if isWide t.mode then clearSlot x (i + 1) t.mode else x)
        else x)
      let o := if o.toPort then gatherPort o row poison else o
      let o := { o with next := o.next + 1 }
      if o.rows ≤ o.next then
        let b := dropOp b e k
        if o.toPort then sendDrain b e o else b
      else setOp b e k (.drain o))

/-- The Slots that must be final before a drain reads its next one: all of them for the first, so that a fault leaves no
effect (R342; log 71). -/
def drainSlots (o : DrainOp) : List Nat :=
  if o.next = 0 then matSlots (.drain o) else [o.slot + o.next * o.sstr]

/-- A drain behind others may read its next Slot: the unit has taken it up, every earlier product to its Slots has been
added, and no earlier access of its bytes is still to come (R41, R47, R74, R117). -/
def drainMayRead (x : Eddy) (before : List (Nat × MatOp)) (n : Nat) (o : DrainOp) : Bool :=
  let mine := (drainSlots o).flatMap (slotAndPair x)
  let row := (o.addr + o.next * o.pitch, drainRowAhead x before o.dfmt (o.slot + o.next * o.sstr))
  takenUp x n &&
    !before.any (fun p => (matSlots p.2).any (fun j => (slotAndPair x j).any (fun q => mine.contains q))) &&
    !leeClash x before ((o.desc, 1296) :: (if o.asv then [(o.asaddr + 8 * o.next, 8)] else []))
      (if o.toPort then [] else [row])

/-- R117, R118, R124: the first drain reads its next Slot, once every earlier product to it has been added. -/
def drainSlotRead (e : Nat) (b : Block) : Block :=
  let x := getEddy b e
  match findOp isDrain 0 x.matOps with
  | none => b
  | some (k, o) =>
    if !drainMayRead x (x.matOps.take k) (opPlace x k) o then b
    else match if o.next = 0 then drainStops b e o else none with
    | some c => taskFault b e o.pc c
    | none =>
      match drainSlot b e k o with
      | .error c => taskFault b e o.pc c
      | .ok b => settle b e

def execDrainSlotRead (e : Nat) (s : State) := onBlock (clockedStep (drainSlotRead e)) s

end Sys2Proof.Machine
end

