-- ==== Sys2Proof/Machine/StreamArm.lean ====
section
/-! DEFINITION. Endpoints, stream descriptors, the checks of an arm, rings, and the STR instructions (R189, R195 to
R208). -/

namespace Sys2Proof.Machine

/-! ## Endpoints (R189, R195) -/

def epKind (x : Nat) : Nat := fld x 63 60
def epRegion (x : Nat) : Nat := fld x 59 48
def epOff (x : Nat) : Nat := fld x 30 0
def epPort (x : Nat) : Nat := fld x 57 52
def epClass (x : Nat) : Nat := fld x 51 50
def epPeerRegion (x : Nat) : Nat := fld x 47 36
def epFabOff (x : Nat) : Nat := fld x 31 0
def epLink (x : Nat) : Nat := fld x 52 48
def epVc (x : Nat) : Nat := fld x 47 46
def epStore (x : Nat) : Nat := fld x 56 45
def epRemOff (x : Nat) : Nat := fld x 44 0

/-- The reserved bits of an endpoint are 0. -/
def epReserved (x : Nat) : Bool :=
  match epKind x with
  | 0 => isZero x 47 31
  | 1 => isZero x 59 58 && isZero x 35 32
  | 2 => isZero x 59 53 && isZero x 45 0
  | 3 => isZero x 59 50 && isZero x 43 0
  | 4 => isZero x 59 53 && isZero x 47 0
  | 5 => isZero x 59 57
  | _ => true

/-- The offset of an endpoint that has one. -/
def epOffset (x : Nat) : Nat :=
  match epKind x with
  | 0 => epOff x
  | 1 => epFabOff x
  | 5 => epRemOff x
  | _ => 0

/-- The Region of a Lee endpoint. -/
def epLee (b : Block) (x : Nat) : Option Region := if epKind x = 0 then getRegion b (epRegion x) else none

/-- The endpoint is a RING Region. -/
def epIsRing (b : Block) (x : Nat) : Bool := (epLee b x).any (fun r => r.kind = .ring)

/-- The Lee address of a Lee endpoint. -/
def epAddr (b : Block) (x : Nat) : Nat := ((epLee b x).map regionAddr).getD 0 + epOff x

/-! ## Shape of a transfer (R198, R199, R215) -/

/-- Bytes of an element. -/
def Xfer.eb (x : Xfer) : Nat := if x.fine then 2 ^ x.elemb * x.c0 else 16 * x.c0

/-- The total of R199. -/
def Xfer.total (x : Xfer) : Nat := x.eb * x.c1 * x.c2 * x.c3 * x.c4

/-- A dimension with its count and its stride. -/
def Xfer.dims (x : Xfer) : List (Nat × Int) :=
  [(x.c1, signed 48 x.t1), (x.c2, signed 48 x.t2), (x.c3, signed 48 x.t3), (x.c4, signed 48 x.t4)]

/-- The indices i1 to i4 of an element in walk order. -/
def Xfer.indices (x : Xfer) (k : Nat) : List Nat :=
  [k % x.c1, k / x.c1 % x.c2, k / (x.c1 * x.c2) % x.c3, k / (x.c1 * x.c2 * x.c3)]

/-- The five-index cursor of a walk position (R221). -/
def Xfer.cursorAt (x : Xfer) (p : Nat) : List Nat :=
  if x.eb = 0 then [0, 0, 0, 0, 0]
  else (p % x.eb / (if x.fine then 2 ^ x.elemb else 16)) :: x.indices (p / x.eb)

/-- Sum of integers. -/
def sumInt : List Int → Int
  | [] => 0
  | a :: r => a + sumInt r

/-- The displacement of an element on the strided side, outside index mode. -/
def Xfer.disp (x : Xfer) (k : Nat) : Int :=
  sumInt (List.zipWith (fun (i : Nat) (d : Nat × Int) => if d.1 = 1 then 0 else (i : Int) * d.2) (x.indices k) x.dims)

/-- The lowest and highest displacement of the strided side (R200). -/
def Xfer.spanLow (x : Xfer) : Int :=
  sumInt (x.dims.map (fun d => if d.1 ≤ 1 then 0 else min 0 (((d.1 : Int) - 1) * d.2)))

def Xfer.spanHigh (x : Xfer) : Int :=
  sumInt (x.dims.map (fun d => if d.1 ≤ 1 then 0 else max 0 (((d.1 : Int) - 1) * d.2)))

/-- The transfer of a descriptor (R197) and an arm word. -/
def xferOf (desc : Nat) (arm : DWord) : Xfer where
  src := fld desc 63 0
  dst := fld desc 127 64
  c0 := fld desc 159 128
  c1 := fld desc 191 160
  c2 := fld desc 223 192
  c3 := fld desc 255 224
  c4 := fld desc 287 256
  t1 := fld desc 335 288
  t2 := fld desc 383 336
  t3 := fld desc 431 384
  t4 := fld desc 479 432
  side := bit desc 511
  fine := bit desc 509
  index := bit desc 510
  elemb := fld desc 508 507
  ctx := fld desc 506 503
  arm := arm
  ending := none

/-! ## The arm word (R201) -/

def armGen (a : Nat) : Bool := bit a 63
def armGate (a : Nat) : Nat := fld a 62 50
def armCount (a : Nat) : Nat := fld a 49 34
def armRing (a : Nat) : Bool := bit a 33
def armDeadline (a : Nat) : Nat := fld a 30 0
def armRate (a : Nat) : Nat := fld a 19 0

/-! ## The checks of an arm (R202) -/

/-- Check 3: fields, alignments and mode combinations (BAD_DESC). -/
def armFields (b : Block) (n desc : Nat) (x : Xfer) : Bool :=
  let a := x.arm.toNat
  let gather := x.fine || x.index
  let unit := if x.fine then 2 ^ x.elemb else 16
  let strided := if x.side then x.dst else x.src
  isZero desc 502 480 && isZero a 32 31 && (!armRing a || isZero a 30 20) &&
    epReserved x.src && epReserved x.dst &&
    (epKind strided != 1 && epKind strided != 2) &&
    (!armRing a || epIsRing b x.dst) && !(armGen a && armCount a == 0) &&
    epOffset x.src % unit == 0 && epOffset x.dst % 16 == 0 &&
    (x.dims.all (fun d => d.1 == 1 || d.2 % unit == 0) || x.index) &&
    (!gather || (!x.side && epKind x.src != 5)) &&
    (!x.index || (x.c4 == 1 && signed 48 x.t1 % unit == 0 && (x.c2 == 1 || signed 48 x.t2 % unit == 0) &&
      (x.c3 == 1 || signed 48 x.t3 % unit == 0) && x.t4 % 16 == 0 &&
      (checkOwn b n false x.t4 (4 * x.c1)).isOk))

/-- A Lee endpoint that the job holds, in a usable Current (R195). -/
def armLee (b : Block) (x : Nat) : Option Region :=
  match epLee b x with
  | some r => if r.held && curUsable b r.cur then some r else none
  | none => none

/-- Check 4: endpoints (BAD_ENDPOINT). -/
def armEndpoints (b : Block) (n : Nat) (x : Xfer) : Bool :=
  (match epKind x.src with
   | 0 => (armLee b x.src).any (fun r => r.kind = .plain || r.kind = .reduce)
   | 5 => true
   | _ => false) &&
  (match epKind x.dst with
   | 0 => (armLee b x.dst).any (fun r => r.kind = .plain || (r.kind = .ring && r.cur == n && !x.side))
   | 1 => epClass x.dst != 1 && portUp b (epPort x.dst)
   | 2 => (epVc x.dst == 1 || epVc x.dst == 3) && linkUp b (epLink x.dst)
   | 5 => true
   | _ => false) &&
  ((armLee b x.src).any (fun r => r.cur == n) || (armLee b x.dst).any (fun r => r.cur == n))

/-- Every armed transfer of a stream. -/
def Stream.armed (s : Stream) : List Xfer := s.active.toList ++ s.pending.toList

/-- Another stream's armed transfer names the ring (RING_BUSY). -/
def ringBusy (b : Block) (sid region : Nat) : Bool :=
  b.streams.any (fun p => p.1 != sid && p.2.armed.any (fun x => epIsRing b x.dst && epRegion x.dst == region))

/-- The extent of one side passes its bound (R200). -/
def passesBound (b : Block) (x : Xfer) (strided : Bool) (e : Nat) : Bool :=
  let lo : Int := if strided then x.spanLow else 0
  let hi : Int := if strided then x.spanHigh + (x.eb : Int) else (x.total : Int)
  match epKind e with
  | 0 =>
    (match epLee b e with
     | none => true
     | some r =>
       if r.kind = .ring then r.size % x.eb != 0
       else decide ((epOff e : Int) + lo < 0) || decide ((r.size : Int) < (epOff e : Int) + hi))
  | 1 => decide (2 ^ 32 < epFabOff e + x.total)
  | 5 => decide ((epRemOff e : Int) + lo < 0) || decide ((2 ^ 45 : Int) < (epRemOff e : Int) + hi)
  | _ => false

/-- The job holds the context and it is VALID (R202 check 6). -/
def armContext (b : Block) (x : Xfer) : Bool :=
  (epKind x.src != 5 && epKind x.dst != 5) || ((getCtx b x.ctx).held && (getCtx b x.ctx).valid)

/-- R202: the checks of an arm of a block-wide stream, in order. -/
def armCheck (b : Block) (sid : Nat) (rearm : Bool) (desc : Nat) (arm : DWord) : Except Nat Xfer :=
  let s := getStream b sid
  let x := xferOf desc arm
  if !s.held then .error 0x10A
  else if rearm && s.pending.isSome then .error 0x101
  else if !rearm && (s.active.isSome || s.pending.isSome) then .error 0x102
  else if !armFields b (sid / 256) desc x then .error 0x106
  else if !armEndpoints b (sid / 256) x then .error 0x107
  else if armGen arm.toNat && !(getGate b (armGate arm.toNat)).held then .error 0x10B
  else if !armContext b x then .error 0x108
  else if epIsRing b x.dst && ringBusy b sid (epRegion x.dst) then .error 0x109
  else if x.total = 0 then .ok x
  else if 2 ^ 48 - 16 < x.total then .error 0x103
  else if passesBound b x x.side x.dst then .error 0x104
  else if !x.index && passesBound b x (!x.side) x.src then .error 0x105
  else .ok x

/-! ## Rings (R207, R208) -/

/-- The published occupancy W − Rd. -/
def ringOcc (r : Region) : Nat := (r.ringW + 2 ^ 32 - r.ringRd) % 2 ^ 32

/-- The ring that a RWAIT or RFREE of Current c names (R208). -/
def ringOf (b : Block) (c id : Nat) : Except Nat Region :=
  match getRegion b id with
  | none => .error 0x605
  | some r =>
    if !r.held then .error 0x605
    else if r.cur != c then .error 0x384
    else if r.kind != .ring then .error 0x606
    else .ok r

/-- RWAIT can complete: b bytes are published, or the ring is marked END. -/
def rwaitMet (r : Region) (n : Nat) : Bool := decide (n ≤ ringOcc r) || r.ringEnd

/-- What RWAIT returns (R206). -/
def rwaitResult (r : Region) (n : Nat) : DWord :=
  BitVec.ofNat 64 (ringOcc r * 2 ^ 32 + (if ringOcc r < n then 0x111 else 0))

/-! ## A transfer becomes active (R203, R207, R209) -/

/-- The TTE with which a transfer becomes active. -/
def firstTte (b : Block) (x : Xfer) : Nat :=
  let a := x.arm.toNat
  if armRing a then
    (if armRate a = 0 then 0x7FFFFFFF
     else min 0x7FFFFFFF (64 * ((epLee b x.dst).map ringOcc).getD 0 / armRate a))
  else armDeadline a

/-- A transfer takes the active slot; one into a ring clears END. -/
def activate (b : Block) (sid : Nat) (x : Xfer) : Block :=
  let b := updStream b sid (fun s =>
    { s with active := some x
             pending := none
             stalled := false
             miss := false
             granted := 0
             delivered := 0
             published := 0
             staged := []
             arrived := []
             page := none
             bad := none
             rangeHit := false
             tte := firstTte b x })
  match epLee b x.dst with
  | some r => if r.kind = .ring then putRegion b (epRegion x.dst) { r with ringEnd := false } else b
  | none => b

/-- An accepted transfer placed in its slot (R203). -/
def placeXfer (b : Block) (sid : Nat) (rearm : Bool) (x : Xfer) : Block :=
  if rearm && (getStream b sid).active.isSome then updStream b sid (fun s => { s with pending := some x })
  else activate b sid x

/-! ## STR instructions (R205, R206) -/

/-- The block-wide index of the stream that an instruction names. -/
def strSid (x : Eddy) (e w : Nat) : Except Nat Nat :=
  if bit w 91 then (ctlReg x (fld w 90 85)).map (fun v => 256 * (e / 16) + v % 256)
  else .ok (256 * (e / 16) + fld w 84 77)

/-- The destination register written. -/
def writeRd (b : Block) (e w : Nat) (v : DWord) : Except Nat Block :=
  (setReg (getEddy b e) (fld w 115 110) v false).map (fun y => putEddy b e y)

/-- The entry of an instruction whose effect came at issue. -/
def pushPlain (b : Block) (e cls : Nat) : Block := updEddy b e (fun x => pushQueue x cls .plain)

/-- R202 to R206: ARM and REARM. -/
def bodyArm (rearm : Bool) : Body := fun b e w =>
  let x := getEddy b e
  (strSid x e w).bind (fun sid =>
    (ctlReg x (fld w 109 104)).bind (fun a =>
      if isLeeAddr a && addrCur a == e / 16 && a % 16 != 0 then .error 0x385
      else
        (checkOwn b (e / 16) false a 64).bind (fun _ =>
          let d := leeBytesAt b a 64
          let desc := markedNat d.1
          if desc.2 || regPoison x (fld w 103 98) then .ok (d.2, .fault 0x118)
          else
            let arm := readReg x (fld w 103 98)
            match armCheck d.2 sid rearm desc.1 arm with
            | .error c => (writeRd (pushPlain d.2 e 3) e w (BitVec.ofNat 64 c)).map (fun b => (b, .next))
            | .ok t => (writeRd (pushPlain (placeXfer d.2 sid rearm t) e 3) e w 0).map (fun b => (b, .next)))))

def execArm (e : Nat) (s : State) := onBlock (issue 3 0x0 (bodyArm false) e) s
def execRearm (e : Nat) (s : State) := onBlock (issue 3 0x1 (bodyArm true) e) s

/-- The status word of SWAIT and SSTAT (R206). -/
def streamWord (s : Stream) : DWord :=
  BitVec.ofNat 64 (s.done * 2 ^ 16 + 2 ^ 15 * b2n s.active.isSome + 2 ^ 14 * b2n s.pending.isSome +
    2 ^ 13 * b2n s.stalled + 2 ^ 12 * b2n s.miss + s.last)

/-- An instruction that waits in its unit's queue and holds issue. -/
def pushWait (b : Block) (e cls : Nat) (q : QEntry) : Block :=
  updEddy b e (fun x => { pushQueue x cls q with wait := .unit cls })

/-- R205: SWAIT returns once at most N transfers remain armed. -/
def bodySwait : Body := fun b e w =>
  (strSid (getEddy b e) e w).bind (fun sid =>
    if isLiveCounter (getEddy b e) (fld w 115 110) then .error 0x380
    else
      let s := getStream b sid
      if s.armed.length ≤ b2n (bit w 76) then
        (writeRd (pushPlain b e 3) e w (streamWord s)).map (fun b => (b, .next))
      else .ok (pushWait b e 3 (.swait sid (b2n (bit w 76)) (fld w 115 110)), .next))

def execSwait (e : Nat) (s : State) := onBlock (issue 3 0x2 bodySwait e) s

/-- R205, R208: RWAIT returns once the ring holds b published bytes or is marked END. -/
def bodyRwait : Body := fun b e w =>
  let x := getEddy b e
  (ctlReg x (fld w 97 92)).bind (fun v =>
    (ringOf b (e / 16) (fld v 11 0)).bind (fun r =>
      if isLiveCounter x (fld w 115 110) then .error 0x380
      else if rwaitMet r (fld v 63 32) then
        (writeRd (pushPlain b e 3) e w (rwaitResult r (fld v 63 32))).map (fun b => (b, .next))
      else .ok (pushWait b e 3 (.rwait (fld v 11 0) (fld v 63 32) (fld w 115 110)), .next)))

def execRwait (e : Nat) (s : State) := onBlock (issue 3 0x3 bodyRwait e) s

/-- R208: RFREE advances Rd, or is refused with RING_UNDER. -/
def bodyRfree : Body := fun b e w =>
  (ctlReg (getEddy b e) (fld w 97 92)).bind (fun v =>
    (ringOf b (e / 16) (fld v 11 0)).bind (fun r =>
      let n := fld v 63 32
      if n % 16 = 0 && decide (n ≤ ringOcc r) then
        (writeRd (pushPlain (putRegion b (fld v 11 0) { r with ringRd := (r.ringRd + n) % 2 ^ 32 }) e 3) e w 0).map
          (fun b => (b, .next))
      else (writeRd (pushPlain b e 3) e w 0x115).map (fun b => (b, .next))))

def execRfree (e : Nat) (s : State) := onBlock (issue 3 0x4 bodyRfree e) s

/-- R205: SSTAT returns the status word without waiting. -/
def bodySstat : Body := fun b e w =>
  (strSid (getEddy b e) e w).bind (fun sid =>
    (writeRd (pushPlain b e 3) e w (streamWord (getStream b sid))).map (fun b => (b, .next)))

def execSstat (e : Nat) (s : State) := onBlock (issue 3 0x5 bodySstat e) s

/-! ## Take-up of a unit queue (R74) -/

/-- A result written to a register when its wait ends. -/
def waitResult (b : Block) (e rd : Nat) (v : DWord) : Block :=
  updEddy b e (fun x => { writeReg x rd v false with wait := .none })

/-- The condition of a CWAIT: DONE of the descriptor reads as set; and what the read did. -/
def cwaitMet (b : Block) (desc : Nat) : Bool × Block :=
  let r := leeBytesAt b (desc + 0x40) 2
  (bit (markedNat r.1).1 15, r.2)

/-- The head of a queue can leave it: what it then does. A MAT instruction begins its effects; an MMA leaves with its
first row (R113), a FURL or UNFURL when a codec unit accepts it (R187). -/
def takeUpHead (b : Block) (e : Nat) : QEntry → Option Block
  | .plain => some b
  | .mat _ => some b
  | .mma _ => none
  | .swait sid n rd =>
    if (getStream b sid).armed.length ≤ n then some (waitResult b e rd (streamWord (getStream b sid))) else none
  | .rwait id n rd =>
    match getRegion b id with
    | some r => if rwaitMet r n then some (waitResult b e rd (rwaitResult r n)) else none
    | none => none
  | .cwait desc =>
    let r := cwaitMet b desc
    if r.1 then some (updEddy r.2 e (fun x => { x with wait := .none })) else none
  | .codJob => none

/-- R74: a unit takes up the instruction at the head of its queue. -/
def unitTakeUp (e cls : Nat) (b : Block) : Block :=
  match queueOf (getEddy b e) cls with
  | [] => b
  | q :: r =>
    match takeUpHead b e q with
    | none => b
    | some b =>
      let b := updEddy b e (fun y => setQueue y cls r)
      if cls = 4 then settle b e else b

def execUnitTakeUp (e u : Nat) (s : State) := onBlock (clockedStep (unitTakeUp e u)) s

end Sys2Proof.Machine
end

