-- ==== Sys2Proof/Machine/Streams.lean ====
section
/-! DEFINITION. The stream engine: grants, gather mode, translation, stream faults, completion, deadlines and
arbitration (R198, R204, R207, R209 to R224). -/

namespace Sys2Proof.Machine

/-! ## Addresses of a walk position (R198, R207, R215) -/

/-- The byte offset, in its endpoint, of a walk position on one side, outside index mode. -/
def sideOff (x : Xfer) (strided : Bool) (base p : Nat) : Nat :=
  if strided then ((base : Int) + x.disp (p / x.eb)).toNat + p % x.eb else base + p

/-- The remote side's offset of a walk position. -/
def remoteOff (x : Xfer) (p : Nat) : Nat :=
  if epKind x.src = 5 then sideOff x (!x.side) (epRemOff x.src) p else sideOff x x.side (epRemOff x.dst) p

/-- The remote side's store ID. -/
def remoteStore (x : Xfer) : Nat := if epKind x.src = 5 then epStore x.src else epStore x.dst

/-- The transfer has a remote endpoint. -/
def isRemote (x : Xfer) : Bool := epKind x.src == 5 || epKind x.dst == 5

/-- The 57-bit remote address of a walk position. -/
def remoteAddr (x : Xfer) (p : Nat) : Nat := remoteStore x * 2 ^ 45 + remoteOff x p

/-- The offset, in a ring, of a walk position (R207). -/
def ringOff (s : Stream) (x : Xfer) (r : Region) (p : Nat) : Nat :=
  ((r.ringW + (p / x.eb - s.published) * x.eb) % 2 ^ 32 % r.size + p % x.eb) % r.size

/-- The Lee address of a walk position of the destination. -/
def leeDest (s : Stream) (x : Xfer) (r : Region) (p : Nat) : Nat :=
  regionAddr r + (if r.kind = .ring then ringOff s x r p else sideOff x x.side (epOff x.dst) p)

/-! ## Paths (R14, R15, R21) -/

/-- The end of a transfer's path at an endpoint; a remote one lies behind the link of the page in use. -/
def epPlace (b : Block) (n : Nat) (s : Stream) (ep : Nat) : Place :=
  match epKind ep with
  | 0 => .cur (((epLee b ep).map (·.cur)).getD n)
  | 1 => .edge (portHalf (epPort ep))
  | 2 => .edge (linkHalf (epLink ep))
  | _ => .edge ((s.page.map (fun g => linkHalf g.link)).getD (curHalf n))

/-- The transfer has data to carry between the halves. -/
def streamCrosses (b : Block) (n : Nat) (s : Stream) (x : Xfer) : Bool :=
  (epPlace b n s x.src).half != (epPlace b n s x.dst).half

/-! ## Reading the source -/

/-- The offset of an index-mode element in its Region, and whether its index is poisoned (R215). -/
def indexOff (b : Block) (x : Xfer) (p : Nat) : Int × Bool × Block :=
  let i := x.indices (p / x.eb)
  let idx := leeBytesAt b (x.t4 + 4 * i.getD 0 0) 4
  let v := markedNat idx.1
  ((epOff x.src : Int) + (v.1 : Int) * signed 48 x.t1 +
    (if x.c2 = 1 then 0 else (i.getD 1 0 : Int) * signed 48 x.t2) +
    (if x.c3 = 1 then 0 else (i.getD 2 0 : Int) * signed 48 x.t3), v.2, idx.2)

/-- The bytes of one run inside one element of an index-mode source, and whether the element is a poisoned zero
element (R215, R217). -/
def indexRun (b : Block) (x : Xfer) (p n : Nat) : Marked × Bool × Block :=
  let o := indexOff b x p
  match epLee b x.src with
  | none => (List.replicate n (0, true), true, o.2.2)
  | some r =>
    if o.2.1 || decide (o.1 < 0) || decide ((r.size : Int) < o.1 + x.eb) then
      (List.replicate n (0, true), true, o.2.2)
    else
      let d := leeBytesAt o.2.2 (regionAddr r + o.1.toNat + p % x.eb) n
      (d.1, false, d.2)

/-- The bytes of one run inside one element of a Lee source. -/
def sourceRun (b : Block) (x : Xfer) (p n : Nat) : Marked × Bool × Block :=
  if x.index then indexRun b x p n
  else
    let d := leeBytesAt b (((epLee b x.src).map regionAddr).getD 0 + sideOff x (!x.side) (epOff x.src) p) n
    (d.1, false, d.2)

/-- The bytes of a part of the walk, element by element; fuel bounds the elements. -/
def sourceBytes : Nat → Block → Xfer → Nat → Nat → Marked × Bool × Block
  | 0, b, _, _, _ => ([], false, b)
  | k + 1, b, x, p, n =>
    if n = 0 then ([], false, b)
    else
      let m := min n (x.eb - p % x.eb)
      let r := sourceRun b x p m
      let t := sourceBytes k r.2.2 x (p + m) (n - m)
      (r.1 ++ t.1, r.2.1 || t.2.1, t.2.2)

/-! ## Writing the destination -/

/-- Bytes filled with zeros to the end of a granule that starts at an address. -/
def padTo16 (a : Nat) (l : Marked) : Marked := l ++ List.replicate ((16 - (a + l.length) % 16) % 16) (0, false)

/-- Bytes written into a ring at an offset, past its end at its beginning. -/
def ringWrite (b : Block) (n : Nat) (r : Region) (off : Nat) (l : Marked) : Block :=
  let k := r.size - off
  let b := leeWriteBytes b n (regionAddr r + off) (l.take k)
  if l.length ≤ k then b else leeWriteBytes b n (regionAddr r) (l.drop k)

/-- Bytes of the walk written to a Lee destination (R198, R207, R215). What a ring's granule holds beyond them is zero
bytes until the next write there. -/
def writeLee (b : Block) (n : Nat) (s : Stream) (x : Xfer) (p : Nat) (l : Marked) : Block :=
  match epLee b x.dst with
  | none => b
  | some r =>
    if r.kind = .ring then
      let off := ringOff s x r p
      ringWrite b n r off (padTo16 off l)
    else
      let off := sideOff x x.side (epOff x.dst) p
      leeWriteBytes b n (regionAddr r + off) (if p + l.length = x.total then padTo16 off l else l)

/-- WRITE_REQ packets of staged granules (R220, R283): the WID counts writes modulo 2^16. -/
def sendStaged (b : Block) (sid : Nat) : List StagedWrite → Block
  | [] => b
  | w :: r =>
    let k := getLink b w.link
    let pkt : LinkPkt := ⟨.stream sid w.data.length,
      pktHeader 0x21 (w.data.length / 16) (reqMid k.wid w.store w.off) (pmaskOf w.data) ++ w.data.map (·.1)⟩
    sendStaged (putLink b w.link { pushPkt k 2 pkt with
      wid := (k.wid + 1) % 2 ^ 16
      writes := k.writes.filter (fun x => x.wid != k.wid) ++ [⟨k.wid, sid, w.pos, w.addr, true⟩] }) sid r

/-- A stream's bytes over their path, granule by granule of the walk (R338). -/
def moveBytes (b : Block) (src dst : Place) (l : Marked) : Marked × Block :=
  let r := movePath b src dst ((chunks l.length 16 l).map (fun c => (granuleOf (c.map (·.1)), c.any (·.2))))
  ((r.1.flatMap (fun g => (granuleBytes g.1).map (fun y => (y, g.2)))).take l.length, r.2)

/-- Bytes of the walk that have reached the destination of the active transfer. -/
def deliver (b : Block) (sid : Nat) (x : Xfer) (p : Nat) (l : Marked) : Block :=
  let n := sid / 256
  let s := getStream b sid
  let fill := if p + l.length = x.total then padTo16 0 l else l
  match epKind x.dst with
  | 0 =>
    updStream (writeLee b n s x p l) sid (fun s => { s with delivered := p + l.length, granted := max s.granted (p + l.length) })
  | 1 =>
    let port := getPort b (epPort x.dst)
    let left := (roundUpTo x.total 16 - p) / 16
    let port := feedRun (fill.length / 8 + 2) port (epClass x.dst) (.stream sid) (epPeerRegion x.dst)
      (epFabOff x.dst + p) left (granulesOf fill)
    updStream (countPoison (putPort b (epPort x.dst) port) n (poisonedGrans fill)) sid
      (fun s => { s with granted := p + l.length })
  | 2 =>
    let b := updLink b (epLink x.dst) (fun k => pushPkt k (epVc x.dst) (egressPkt (.stream sid l.length) fill))
    updStream (countPoison b n (poisonedGrans fill)) sid (fun s => { s with granted := p + l.length })
  | _ =>
    match s.page with
    | none => b
    | some pg =>
      let w : StagedWrite := ⟨p, pg.link, pg.store, pg.rbase + (remoteOff x p - pg.base), remoteAddr x p, fill⟩
      let b := updStream (countPoison b n (poisonedGrans fill)) sid
        (fun s => { s with granted := p + l.length, staged := s.staged ++ [w] })
      if (p + l.length) % 128 = 0 ∨ p + l.length = x.total then
        updStream (sendStaged b sid (getStream b sid).staged) sid (fun s => { s with staged := [] })
      else b

/-! ## Demand (R213) -/

/-- The page in use covers the remote address of a walk position. -/
def pageCovers (s : Stream) (x : Xfer) (p : Nat) : Bool :=
  s.page.any (fun g => g.store == remoteStore x && decide (g.base ≤ remoteOff x p) &&
    decide (remoteOff x p < g.base + g.size))

/-- The bytes from a walk position that the answers to remote reads make up without a gap; fuel bounds the answers. -/
def contiguous : Nat → List Arrived → Nat → Marked
  | 0, _, _ => []
  | k + 1, l, p =>
    match l.find? (fun a => a.pos == p && !a.data.isEmpty) with
    | none => []
    | some a => a.data ++ contiguous k l (p + a.data.length)

/-- Where commit must stop: before the unit of a failed granule, and at a unit's end unless the walk ends (R220, R221). -/
def commitEnd (s : Stream) (x : Xfer) : Nat :=
  let upto := s.delivered + (contiguous (s.arrived.length + 1) s.arrived s.delivered).length
  let whole := if upto = x.total then upto else upto / 128 * 128
  match s.bad with
  | some (_, p, _) => min whole (p / 128 * 128)
  | none => whole

/-- Reads of a stream that are still unanswered (R281). -/
def readsOut (b : Block) (sid : Nat) : Bool :=
  b.links.any (fun l => l.2.tags.any (fun t => t.2.req.any (fun q => q.1 == some sid)))

/-- A tag that is free on a link, the lowest (R281). -/
def freeTag (k : Link) : Option Nat :=
  (List.range (k.tags.length + 1)).find? (fun i =>
    decide (i < 4096) && !((Table.find k.tags i).any (fun t => t.req.isSome)))

/-- The bytes of the next grant of a transfer with a Lee source. -/
def grantBytes (b : Block) (s : Stream) (x : Xfer) : Nat :=
  let p := s.granted
  let left := x.total - p
  let inElem := min left (x.eb - p % x.eb)
  let page (m : Nat) : Nat :=
    if epKind x.dst = 5 then min m ((s.page.map (fun g => g.base + g.size - remoteOff x p)).getD m) else m
  if x.fine || x.index then
    let m := page (if epIsRing b x.dst then min 32 inElem else min 32 left)
    if epKind x.dst = 5 ∧ p % 128 ≠ 0 then min m (128 - p % 128) else m
  else
    let a := epAddr b x.src
    let off := sideOff x (!x.side) (epOff x.src) p + (a - epOff x.src)
    let m := page (min (min 512 inElem) (0xC00000 - off % 2 ^ 31 % 0xC00000))
    if epKind x.dst = 5 then
      if p % 128 ≠ 0 then min m (128 - p % 128)
      else if 128 ≤ m ∧ m < left then m / 128 * 128 else m
    else m

/-- The ring has room for the elements of n bytes of the walk, n above 0 (R207). -/
def ringTakes (b : Block) (s : Stream) (x : Xfer) (p n : Nat) : Bool :=
  match epLee b x.dst with
  | some r => r.kind != .ring || decide (((p + n - 1) / x.eb + 1 - s.published) * x.eb + ringOcc r ≤ r.size)
  | none => false

/-- The destination's ring could hold, empty, every element of the commit unit at a walk position. -/
def unitFits (b : Block) (x : Xfer) (p : Nat) : Bool :=
  match epLee b x.dst with
  | some r =>
    let u := p / 128 * 128
    r.kind != .ring || decide (((min x.total (u + 128) - 1) / x.eb + 1 - u / x.eb) * x.eb ≤ r.size)
  | none => false

/-- Granules that a fabric port's class holds for sending. -/
def portQueued (p : Port) (c : Nat) : Nat := ((txQueue p c).map (fun m => m.data.length)).sum

/-- The outbound baffle of a port, 16 flits, takes n bytes of a class, and the class's credits cover what waits there
(R27, R28, R213). -/
def portTakes (b : Block) (f c n : Nat) : Bool :=
  let q := portQueued (getPort b f) c
  portUp b f && decide (q + (n + 15) / 16 ≤ 256) && decide ((q + 15) / 16 < (getPort b f).credits.getD c 0)

/-- A link takes a packet on a VC: it is UP, and its credits and its replay buffer cover the flits that wait (R213, R279,
R280, R309). -/
def linkTakes (b : Block) (l vc : Nat) : Bool :=
  let k := getLink b l
  let q := if vc = 1 then (k.tx1, k.cut1) else if vc = 2 then (k.tx2, k.cut2) else (k.tx3, k.cut3)
  let flits := ((q.1.map (fun p => p.bytes.length)).sum - q.2 + 503) / 504
  k.state == 2 && decide (flits < creditOf k vc) && decide (k.replay.length + flits < 4096)

/-- The engine can hand bytes to the destination now. -/
def sinkReady (b : Block) (s : Stream) (x : Xfer) (p : Nat) : Bool :=
  match epKind x.dst with
  | 0 => ringTakes b s x p 1
  | 1 => portTakes b (epPort x.dst) (epClass x.dst) (grantBytes b s x)
  | 2 => linkTakes b (epLink x.dst) (epVc x.dst)
  | _ => pageCovers s x p && s.page.any (fun g => linkTakes b g.link 2)

/-- The bytes that the next grant of committed answers writes: whole commit units of up to 512 bytes, or parts of them
at element ends in a ring that could not hold a unit's elements (R220; log 151). -/
def commitBytes (b : Block) (s : Stream) (x : Xfer) : Nat :=
  let p := s.delivered
  let all := commitEnd s x - p
  let m := min all (512 - p % 128)
  let u := min all (128 - p % 128)
  let e := min u (x.eb - p % x.eb)
  if ringTakes b s x p m then m
  else if ringTakes b s x p u then u
  else if !unitFits b x p && ringTakes b s x p e then e
  else 0

/-- Answers to remote reads can be committed. -/
def canCommit (b : Block) (s : Stream) (x : Xfer) : Bool := epKind x.src == 5 && decide (0 < commitBytes b s x)

/-- A remote read can be issued. -/
def canRead (b : Block) (s : Stream) (x : Xfer) : Bool :=
  decide (s.granted < x.total) && pageCovers s x s.granted && ringTakes b s x s.granted 1 &&
    s.page.any (fun g => linkTakes b g.link 2 && (freeTag (getLink b g.link)).isSome)

/-- The Lee clock of a Current runs (R396, R397). -/
def leeRuns (b : Block) (n : Nat) : Bool := curUsable b n && !b.power.hold

/-- The active transfer has demand. -/
def hasDemand (b : Block) (sid : Nat) : Bool :=
  let s := getStream b sid
  match s.active with
  | none => false
  | some x =>
    !s.stalled && leeRuns b (sid / 256) &&
      (canCommit b s x ||
        (s.bad.isNone && x.ending.isNone && decide (s.granted < x.total) &&
          (if epKind x.src = 5 then canRead b s x else sinkReady b s x s.granted)))

/-! ## Grants (R212, R214, R216, R220) -/

/-- The output that the next grant would claim: the block-wide Eddy whose attachment it uses. -/
def grantOutput (b : Block) (sid : Nat) : Nat :=
  let s := getStream b sid
  match s.active with
  | none => 0
  | some x =>
    if epKind x.src = 5 then addrEddy (((epLee b x.dst).map (fun r => leeDest s x r s.delivered)).getD 0)
    else
      let off := if x.index then (indexOff b x s.granted).1.toNat + s.granted % x.eb
        else sideOff x (!x.side) (epOff x.src) s.granted
      addrEddy (((epLee b x.src).map regionAddr).getD 0 + off)

/-- An element written as poisoned zeros: the event of the first one of the transfer (R217). -/
def noteRange (b : Block) (sid : Nat) (hit : Bool) : Block :=
  if hit && !(getStream b sid).rangeHit then
    report (updStream b sid (fun s => { s with rangeHit := true })) (0x1000 + sid) 0x114 0
  else b

/-- Committed bytes written element by element; fuel bounds the elements. -/
def commitRun : Nat → Block → Nat → Xfer → Nat → Marked → Block
  | 0, b, _, _, _, _ => b
  | k + 1, b, sid, x, p, l =>
    if l.isEmpty then b
    else
      let m := x.eb - p % x.eb
      commitRun k (deliver b sid x p (l.take m)) sid x (p + m) (l.drop m)

/-- A grant that writes committed answers (R220). -/
def grantCommit (b : Block) (sid : Nat) (s : Stream) (x : Xfer) : Block :=
  let all := contiguous (s.arrived.length + 1) s.arrived s.delivered
  let p := s.delivered
  let n := commitBytes b s x
  let rest := all.drop n
  let kept := s.arrived.filter (fun a => decide (p + all.length ≤ a.pos))
  let v := moveBytes b (epPlace b (sid / 256) s x.src) (epPlace b (sid / 256) s x.dst) (all.take n)
  let b := commitRun (n / 16 + 1) v.2 sid x p v.1
  updStream b sid (fun t => { t with arrived := if rest.isEmpty then kept else ⟨p + n, rest⟩ :: kept })

/-- A grant that issues a READ_REQ of up to 512 bytes within one element and one page (R220, R281). -/
def grantRead (b : Block) (sid : Nat) (s : Stream) (x : Xfer) : Block :=
  match s.page with
  | none => b
  | some g =>
    let p := s.granted
    let off := remoteOff x p
    let n := min (min 512 (x.eb - p % x.eb)) (min (x.total - p) (g.base + g.size - off))
    let k := getLink b g.link
    match freeTag k with
    | none => b
    | some t =>
      let u := ((Table.find k.tags t).map (fun u => (u.gen + 1) % 16)).getD 0
      let pkt : LinkPkt := ⟨.none, pktHeader 0x20 0 (reqMid (t + 4096 * u) g.store (g.rbase + (off - g.base)))
        ((n / 16 - 1) * 2 ^ 27)⟩
      let b := putLink b g.link { pushPkt k 2 pkt with
        tags := Table.add k.tags t ⟨u, some (some sid, p, n / 16, remoteAddr x p)⟩ }
      updStream b sid (fun s => { s with granted := p + n })

/-- A transfer ends as an abort ends it, with a code (R224, R302, R329, R42). Bytes that have left the engine still meet
their condition, unless their port or link drops them; that holds for a transfer that was ending before, too. -/
def endActive (b : Block) (sid code : Nat) (dropInFlight : Bool) : Block :=
  let s := getStream b sid
  match s.active with
  | none => b
  | some x =>
    let held := (s.staged.map (fun w => w.data.length)).sum
    if x.ending.isSome then
      (if dropInFlight then closeOwner (putStream b sid { s with granted := s.delivered, staged := [] }) (.stream sid) else b)
    else
      let s := { s with active := some { x with ending := some code }, stalled := false, bad := none, staged := [],
                        granted := if dropInFlight then s.delivered else s.granted - held }
      closeOwner (putStream b sid s) (.stream sid)

/-- R21: a transfer that must cross a seam without an active channel ends with the uncontained error. -/
def crossingEnds (b : Block) (sid : Nat) : Block :=
  endActive (seamError b (0x1000 + sid)) sid (Config.seamLostCode % 4096) false

/-- One grant to a stream with demand. -/
def grantOne (b : Block) (sid : Nat) : Block :=
  let s := getStream b sid
  match s.active with
  | none => b
  | some x =>
    if seamDown b && streamCrosses b (sid / 256) s x then crossingEnds b sid
    else if canCommit b s x then grantCommit b sid s x
    else if epKind x.src = 5 then grantRead b sid s x
    else
      let n := grantBytes b s x
      let r := sourceBytes (n + 1) b x s.granted n
      let v := moveBytes r.2.2 (epPlace b (sid / 256) s x.src) (epPlace b (sid / 256) s x.dst) r.1
      noteRange (deliver v.2 sid x s.granted v.1) sid r.2.1

/-- A request goes before another: a count of 1,023 first, by index; then the smaller TTE, then the lower index. -/
def grantBefore (x y : Nat × Nat × Nat) : Bool :=
  if 1023 ≤ x.2.2 ∨ 1023 ≤ y.2.2 then
    (if 1023 ≤ x.2.2 then decide (y.2.2 < 1023) || decide (x.1 < y.1) else false)
  else decide (x.2.1 < y.2.1) || (decide (x.2.1 = y.2.1) && decide (x.1 < y.1))

/-- A request put in its place. -/
def grantInsert (x : Nat × Nat × Nat) : List (Nat × Nat × Nat) → List (Nat × Nat × Nat)
  | [] => [x]
  | y :: r => if grantBefore x y then x :: y :: r else y :: grantInsert x r

/-- The streams of a Current with demand, best first: index, TTE, count. -/
def grantOrder (b : Block) (n : Nat) : List (Nat × Nat × Nat) :=
  (b.streams.filter (fun p => p.1 / 256 == n && hasDemand b p.1)).foldr
    (fun p l => grantInsert (p.1, p.2.tte, p.2.skipped) l) []

/-- R212: a stream with demand that got no grant counts the grants of the round, up to 1,023. -/
def countSkipped (b : Block) (n : Nat) : List Nat → Block
  | [] => b
  | sid :: r => countSkipped (updStream b sid (fun s => { s with skipped := min 1023 (s.skipped + n) })) n r

/-- Grants in order, each to an output of its own, at most eight; the outputs taken and the streams passed over. -/
def grantAll : List (Nat × Nat × Nat) → List Nat → List Nat → Block → Block
  | [], used, past, b => countSkipped b used.length past
  | q :: r, used, past, b =>
    let o := grantOutput b q.1
    if used.length < 8 && !used.contains o && hasDemand b q.1 then
      grantAll r (o :: used) past (updStream (grantOne b q.1) q.1 (fun s => { s with skipped := 0 }))
    else grantAll r used (q.1 :: past) b

/-- R214: the engine of Current n makes up to 8 grants, each to a different output. -/
def streamGrant (n : Nat) (b : Block) : Block := grantAll (grantOrder b n) [] [] b

def execStreamGrant (n : Nat) (s : State) := onBlock (streamGrant n) s

/-! ## Arbiters (R126, R211, R212) -/

/-- A request at an output wins over another: the smaller TTE, then the lower place in the order of R211. -/
def requestBefore (x y : Nat × Nat) : Bool := decide (x.1 < y.1) || (decide (x.1 = y.1) && decide (x.2 < y.2))

/-- The best of some requests. -/
def bestRequest : List (Nat × Nat) → Option (Nat × Nat)
  | [] => none
  | x :: r =>
    match bestRequest r with
    | none => some x
    | some y => if requestBefore x y then some x else some y

/-- The lowest requester whose count has reached 1,023. -/
def starved (t : Table Nat) (reqs : List (Nat × Nat)) : Option (Nat × Nat) :=
  bestRequest ((reqs.filter (fun q => decide (1023 ≤ Table.get 0 t q.2))).map (fun q => (0, q.2)))

/-- R211, R212: the arbiter of an output grants one of its requests (TTE, place in the order of R211); every other
requester counts the grant. -/
def arbiterGrant (out : Nat) (reqs : List (Nat × Nat)) (b : Block) : Block :=
  let t := Table.get [] b.arbiters out
  let win := match starved t reqs with
    | some w => some w
    | none => bestRequest reqs
  match win with
  | none => b
  | some w =>
    let t := reqs.foldl (fun t q => if q.2 = w.2 then t else Table.put 0 t q.2 (min 1023 (Table.get 0 t q.2 + 1))) t
    { b with arbiters := Table.put [] b.arbiters out (Table.put 0 t w.2 0) }

def execArbiterGrant (out : Nat) (reqs : List (Nat × Nat)) (s : State) := onBlock (arbiterGrant out reqs) s

/-! ## Rings, deadlines (R207, R209, R210) -/

/-- R207: an element whose every byte is written is published. -/
def ringPublish (sid : Nat) (b : Block) : Block :=
  let s := getStream b sid
  match s.active with
  | none => b
  | some x =>
    match epLee b x.dst with
    | none => b
    | some r =>
      if r.kind = .ring && decide (0 < x.eb) && decide ((s.published + 1) * x.eb ≤ s.delivered) then
        updStream (putRegion b (epRegion x.dst) { r with ringW := (r.ringW + x.eb) % 2 ^ 32 }) sid
          (fun s => { s with published := s.published + 1 })
      else b

def execRingPublish (sid : Nat) (s : State) := onBlock (clockedStep (ringPublish sid)) s

/-- The TTE of an active transfer in the next Lee cycle (R209). -/
def nextTte (b : Block) (s : Stream) : Nat :=
  match s.active with
  | none => 0x7FFFFFFF
  | some x => if armRing x.arm.toNat then firstTte b x else s.tte - 1

/-- R209, R222, R391: every active transfer of Current n recomputes its TTE; while Lee is stopped TTE stands still. -/
def tteTick (n : Nat) (b : Block) : Block :=
  if leeRuns b n then
    { b with streams := b.streams.map (fun p =>
        if p.1 / 256 = n && p.2.active.isSome then (p.1, { p.2 with tte := nextTte b p.2 }) else p) }
  else b

def execTteTick (n : Nat) (s : State) := onBlock (tteTick n) s

/-- An Eddy waits in RWAIT on a ring that cannot let it through. -/
def rwaitHeld (b : Block) (id : Nat) (r : Region) : Bool :=
  b.eddies.any (fun p => (queueOf p.2 3).any (fun q => match q with
    | .rwait i n _ => i == id && !rwaitMet r n
    | _ => false))

/-- The condition of R210 holds for the active transfer. -/
def missDue (b : Block) (s : Stream) (x : Xfer) : Bool :=
  if armRing x.arm.toNat then (epLee b x.dst).any (fun r => rwaitHeld b (epRegion x.dst) r)
  else s.tte == 0 && decide (s.delivered < x.total)

/-- R210: a transfer raises DEADLINE_MISS once; the first miss of a stream in a job records an event. -/
def deadlineMiss (sid : Nat) (b : Block) : Block :=
  let s := getStream b sid
  match s.active with
  | none => b
  | some x =>
    if s.miss || !missDue b s x || !leeRuns b (sid / 256) then b
    else
      let b := putStream b sid { s with miss := true, missNoted := true, misses := satAdd 16 s.misses 1 }
      if s.missNoted then laterReport b (0x1000 + sid) 0x113 else report b (0x1000 + sid) 0x113 0

def execDeadlineMiss (sid : Nat) (s : State) := onBlock (deadlineMiss sid) s

/-! ## Translation (R218, R219) -/

/-- The key {STORE, VPN} of a table entry. -/
def entryKey (g : Nat) : Nat := fld g 118 83

/-- Binary search in the entries from lo on, n of them, for the last whose key is at most a key; the entries are read
by their bank. Fuel bounds the reads. -/
def searchTable : Nat → Block → Nat → Nat → Nat → Nat → Option (Granule × Bool) → Option (Granule × Bool) × Block
  | 0, b, _, _, _, _, best => (best, b)
  | k + 1, b, base, lo, n, key, best =>
    if n = 0 then (best, b)
    else
      let mid := lo + n / 2
      let r := leeRead b (base + mid)
      if r.2.1 then (some (r.1, true), r.2.2)
      else if entryKey r.1.toNat ≤ key then
        searchTable k r.2.2 base (mid + 1) (n - n / 2 - 1) key (some (r.1, false))
      else searchTable k r.2.2 base lo (n / 2) key best

/-- The page that an entry gives for an offset, when the translation succeeds (R219). -/
def pageOf (b : Block) (g : Nat) (store off : Nat) (write : Bool) : Option PageUse :=
  let size := if bit g 126 then 2 ^ 30 else 2 ^ 21
  let base := if bit g 126 then fld g 106 92 * 2 ^ 30 else fld g 106 83 * 2 ^ 21
  if bit g 127 && fld g 118 107 == store && decide (base ≤ off) && decide (off < base + size) &&
      (if write then bit g 124 else bit g 125) && linkUp b (fld g 123 119) then
    some ⟨store, base, size, fld g 123 119, fld g 82 38⟩
  else none

/-- A failure of the active transfer, kept when it lies before any other (R221). -/
def noteBad (b : Block) (sid code p addr : Nat) : Block :=
  updStream b sid (fun s =>
    match s.bad with
    | some (_, q, _) => if q ≤ p then s else { s with bad := some (code, p, addr) }
    | none => { s with bad := some (code, p, addr) })

/-- R219: the translation of the page that the walk next needs ends. -/
def pageTranslationDone (sid : Nat) (b : Block) : Block :=
  let s := getStream b sid
  match s.active with
  | none => b
  | some x =>
    if !isRemote x || s.stalled || s.bad.isSome || x.ending.isSome || decide (x.total ≤ s.granted) ||
        pageCovers s x s.granted || !leeRuns b (sid / 256) then b
    else
      let c := getCtx b x.ctx
      let off := remoteOff x s.granted
      let key := remoteStore x * 2 ^ 24 + off / 2 ^ 21
      if (getRegion b c.region).any (fun r => seamBars b (curHalf r.cur) (curHalf (sid / 256))) then crossingEnds b sid
      else
        let base := (((getRegion b c.region).map regionAddr).getD 0) / 16
        let n := if (getRegion b c.region).isSome && c.valid then c.entries else 0
        let r := searchTable 18 b base 0 n key none
        match r.1 with
        | some (g, false) =>
          (match pageOf b g.toNat (remoteStore x) off (epKind x.dst == 5) with
           | some pg => updStream r.2 sid (fun s => { s with page := some pg })
           | none => noteBad r.2 sid 0x110 s.granted (remoteAddr x s.granted))
        | _ => noteBad r.2 sid 0x110 s.granted (remoteAddr x s.granted)

def execPageTranslationDone (sid : Nat) (s : State) := onBlock (pageTranslationDone sid) s

/-! ## Stream faults (R221 to R224) -/

/-- Granules handed on that have not yet met their destination condition. -/
def inFlight (s : Stream) : Nat := s.granted - s.delivered - (s.staged.map (fun w => w.data.length)).sum

/-- R221, R222: with every answer in and every earlier unit written, the transfer stalls at its cursor. -/
def streamFault (sid : Nat) (b : Block) : Block :=
  let s := getStream b sid
  match s.active, s.bad with
  | some x, some (code, p, addr) =>
    let f := p / 128 * 128
    if s.stalled || x.ending.isSome || readsOut b sid ||
        (if epKind x.src = 5 then canCommit b s x || decide (s.delivered < min f (commitEnd s x))
         else decide (inFlight s ≠ 0)) then b
    else
      let d := if epKind x.src = 5 then min f s.delivered else f
      let b := putStream b sid { s with
        stalled := true
        bad := none
        delivered := d
        granted := d
        staged := []
        arrived := []
        page := none
        cursor := x.cursorAt d
        faultCtx := x.ctx
        faultAddr := addr
        faults := satAdd 16 s.faults 1 }
      let b := report b (0x1000 + sid) code
        (BitVec.ofNat 128 (addr % 2 ^ 57 * 2 ^ 64 + x.ctx * 2 ^ 60 + d % 2 ^ 48))
      notify b (cplEntry 0 0 3 code sid d)
  | _, _ => b

def execStreamFault (sid : Nat) (s : State) := onBlock (clockedStep (streamFault sid)) s

/-- R223: RESUME of a stalled stream; the engine translates again from the cursor. -/
def resumeStream (b : Block) (sid : Nat) : Block :=
  updStream b sid (fun s => if s.stalled then { s with stalled := false, bad := none, page := none } else s)

/-- The pending transfer is to end with a code once it becomes active. -/
def endPending (b : Block) (sid code : Nat) : Block :=
  updStream b sid (fun s => { s with pending := s.pending.map (fun x => { x with ending := some code }) })

/-- R224: ABORT truncates the active transfer and discards the pending one. -/
def abortStream (b : Block) (sid : Nat) : Block := endActive (endPending b sid 0x112) sid 0x111 false

def execStrCmdResume (sid : Nat) (s : State) :=
  onBlock (fun b => if curUsable b (sid / 256) then resumeStream b sid else b) s

def execStrCmdAbort (sid : Nat) (s : State) :=
  onBlock (fun b => if curUsable b (sid / 256) then abortStream b sid else b) s

/-! ## Completion (R199, R203, R204) -/

/-- Every element that is wholly written into a ring is published (R207). -/
def allPublished (b : Block) (s : Stream) (x : Xfer) : Bool :=
  !epIsRing b x.dst || x.total == 0 || decide (s.delivered < (s.published + 1) * x.eb)

/-- The active transfer can complete. -/
def canComplete (b : Block) (sid : Nat) (s : Stream) (x : Xfer) : Bool :=
  allPublished b s x &&
    match x.ending with
    | some _ => !readsOut b sid && !canCommit b s x && (epKind x.src == 5 || inFlight s == 0)
    | none => decide (x.total ≤ s.delivered)

/-- The bytes that a transfer has delivered when it ends. -/
def finalBytes (s : Stream) (x : Xfer) : Nat := min x.total s.delivered

/-- The status of an ended transfer (R204). -/
def finalStatus (s : Stream) (x : Xfer) : Nat :=
  match x.ending with
  | some c => c
  | none => if s.rangeHit then 0x114 else 0

/-- The ring of an aborted transfer is marked END. -/
def markEnd (b : Block) (x : Xfer) : Block :=
  match epLee b x.dst with
  | some r => if r.kind = .ring && x.ending.isSome then putRegion b (epRegion x.dst) { r with ringEnd := true } else b
  | none => b

/-- The writes of a stream's ended transfer. -/
def endWrites (b : Block) (sid : Nat) : Block :=
  { b with links := Table.mapAll Link.fresh b.links (fun k =>
      { k with writes := k.writes.map (fun w => if w.sid = sid then { w with live := false } else w) }) }

/-- R204: a transfer whose bytes have met their condition records its status and signals its Gate. -/
def transferComplete (sid : Nat) (b : Block) : Block :=
  let s := getStream b sid
  match s.active with
  | none => b
  | some x =>
    if !canComplete b sid s x then b
    else
      let b := putStream (markEnd b x) sid { s with
        active := none
        stalled := false
        miss := false
        staged := []
        arrived := []
        page := none
        bad := none
        tte := 0x7FFFFFFF
        skipped := 0
        last := finalStatus s x
        done := finalBytes s x
        cursor := if x.ending.isSome && x.ending != some 0x112 then x.cursorAt (finalBytes s x) else s.cursor }
      let b := if isRemote x then endWrites b sid else b
      let b := if x.ending = some 0x116 then
          { b with job := { b.job with entries := b.job.entries ++ [⟨1, sid, 0x116, finalBytes s x⟩] } } else b
      if armGen x.arm.toNat then unitSignal b (0x1000 + sid) (armGate x.arm.toNat) (armCount x.arm.toNat) else b

def execTransferComplete (sid : Nat) (s : State) := onBlock (clockedStep (transferComplete sid)) s

/-- The fabric port of a transfer is not UP (R329). -/
def portLost (b : Block) (x : Xfer) : Bool := epKind x.dst == 1 && !portUp b (epPort x.dst)

/-- R203, R329: a pending transfer becomes active; one whose fabric port is not UP ends at once with 0x504. -/
def pendingActivate (sid : Nat) (b : Block) : Block :=
  let s := getStream b sid
  match s.active, s.pending with
  | none, some x =>
    let b := activate b sid x
    if x.ending.isNone && portLost b x then endActive b sid 0x504 true else b
  | _, _ => b

def execPendingActivate (sid : Nat) (s : State) := onBlock (clockedStep (pendingActivate sid)) s

/-- R204: bytes of a stream have met the condition of a port or a link. -/
def streamMet (b : Block) (sid n : Nat) : Block :=
  updStream b sid (fun s => { s with delivered := min s.granted (s.delivered + n) })

/-! ## Contexts (R218, R228) -/

/-- The entries of a table are sorted by key and do not overlap. -/
def tableSorted : List Nat → Bool
  | [] => true
  | [_] => true
  | a :: c :: r =>
    decide (entryKey a + (if bit a 126 then 512 else 1) ≤ entryKey c) && tableSorted (c :: r)

/-- The table of a context is in order: a persistent PLAIN Region that holds its entries, sorted, without overlap. -/
def tableOk (b : Block) (c : XltCtx) (region : Nat) : Bool × Block :=
  match getRegion b region with
  | none => (false, b)
  | some r =>
    if r.kind = .plain && r.persistent && curUsable b r.cur && decide (16 * c.entries ≤ r.size) then
      let t := leeReadN b (regionAddr r / 16) c.entries
      (!t.1.any (·.2) && tableSorted (t.1.map (fun g => g.1.toNat)), t.2)
    else (false, b)

/-- R228: a write of XLT.CTX_c; setting VALID makes Windsock check the table, which refuses a bad one. -/
def xltCtxValid (c : Nat) (w : Word) (b : Block) : Block :=
  if 16 ≤ c then b
  else
    let x := getCtx b c
    let region := fld w.toNat 11 0
    if bit w.toNat 31 && !(x.valid && region == x.region) then
      let t := tableOk b x region
      putCtx t.2 c { x with region := region, valid := t.1 }
    else putCtx b c { x with region := region, valid := bit w.toNat 31 }

def execXltCtxValid (c : Nat) (w : BitVec 32) (s : State) := onBlock (xltCtxValid c w) s

end Sys2Proof.Machine
end

