-- ==== Sys2Proof/Machine/Codec.lean ====
section
/-! DEFINITION. The codec units: COD instructions, acceptance and start of jobs, Furl, Unfurl and the end of a job (R158,
R170 to R194). -/

namespace Sys2Proof.Machine

/-! ## Units by the index of R349 -/

/-- The link of a link-attached unit. -/
def unitLink (u : Nat) : Option Nat :=
  if u < 24 then some u else if 0x40 ≤ u ∧ u < 0x58 then some (u - 0x40) else none

/-- The Current of a Current-attached unit, and the unit's number in it. -/
def unitCur (u : Nat) : Nat := if 0x200 ≤ u then (u - 0x200) / 2 else (u - 0x100) / 4
def unitNum (u : Nat) : Nat := if 0x200 ≤ u then (u - 0x200) % 2 else (u - 0x100) % 4

/-- The unit is an Unfurl. -/
def unitUnfurl (u : Nat) : Bool := decide (u < 24) || (decide (0x100 ≤ u) && decide (u < 0x120))

/-- The block has the unit. -/
def unitExists (u : Nat) : Bool := (unitLink u).isSome || unitUnfurl u || (decide (0x200 ≤ u) && decide (u < 0x210))

/-- The unit's end of a path (R14, R15). -/
def unitPlace (u : Nat) : Place :=
  match unitLink u with
  | some l => .edge (linkHalf l)
  | none => .cur (unitCur u)

/-- An endpoint's end of a path of the unit. -/
def codPlace (b : Block) (u ep : Nat) : Place :=
  match epKind ep with
  | 0 => .cur (((epLee b ep).map (·.cur)).getD (unitCur u))
  | 1 => .edge (portHalf (epPort ep))
  | 2 => .edge (linkHalf (epLink ep))
  | _ => unitPlace u

/-- The clock of the unit runs (R158). -/
def unitRuns (b : Block) (u : Nat) : Bool := (unitLink u).isSome || leeRuns b (unitCur u)

/-! ## The COD instructions (R186, R187) -/

/-- The checks of DREG. -/
def codAddr (b : Block) (e w n : Nat) : Except Nat Nat :=
  (ctlReg (getEddy b e) (fld w 115 110)).bind (fun a =>
    if isLeeAddr a && addrCur a == e / 16 && a % 16 != 0 then .error 0x385
    else (checkOwn b (e / 16) false a n).map (fun _ => a))

/-- FURL and UNFURL: the job is offered to its unit from the Eddy's COD queue. -/
def bodyCodJob (unfurl : Bool) : Body := fun b e w =>
  (codAddr b e w 128).map (fun a =>
    let b := updEddy b e (fun x => pushQueue x 8 .codJob)
    ({ b with codOffers := b.codOffers ++
        [⟨.eddy e (getEddy b e).pc, unfurl, e / 16, fld w 109 104, a⟩] }, .next))

def execFurl (e : Nat) (s : State) := onBlock (issue 8 0x0 (bodyCodJob false) e) s
def execUnfurl (e : Nat) (s : State) := onBlock (issue 8 0x1 (bodyCodJob true) e) s

/-- CWAIT: until the job described is DONE. -/
def bodyCwait : Body := fun b e w =>
  (codAddr b e w 128).map (fun a =>
    let r := cwaitMet b a
    if r.1 && (queueOf (getEddy b e) 8).isEmpty then (pushPlain r.2 e 8, .next)
    else (pushWait r.2 e 8 (.cwait a), .next))

def execCwait (e : Nat) (s : State) := onBlock (issue 8 0x2 bodyCwait e) s

/-! ## The descriptor (R171, R188) -/

/-- The job of a descriptor's first 64 bytes. -/
def codJobOf (unfurl : Bool) (a d : Nat) : CodJob where
  unfurl := unfurl
  desc := a
  src := fld d 63 0
  dst := fld d 127 64
  ssrc := fld d 191 128
  sdst := fld d 255 192
  inBytes := fld d 287 256
  outLimit := fld d 319 288
  sinBytes := fld d 351 320
  soutLimit := fld d 383 352
  gate := fld d 399 384
  gcount := fld d 415 400
  streamId := fld d 431 416
  tag := fld d 439 432
  paired := bit d 447
  ratio := fld d 443 440
  frameNo := fld d 479 448
  depth := if bit d 487 then fld d 495 488 else fld d 483 480
  hash := if bit d 487 then 10 + fld d 499 496 else min 16 (max 12 (11 + fld d 483 480))
  window := if bit d 487 then fld d 503 500 else 4
  dline := fld d 511 504

/-- A job whose source is a catch queue. -/
def CodJob.ingress (j : CodJob) : Bool := epKind j.src == 4

/-- A Furl job that takes stash flits. -/
def CodJob.stash (j : CodJob) : Bool := !j.unfurl && epKind j.src == 1

/-- A Lee range of the job: address and bytes. -/
def leeRange (b : Block) (ep n : Nat) : List (Nat × Nat) := if epKind ep = 0 then [(epAddr b ep, n)] else []

/-- A Lee endpoint of n bytes: inside its Region, which its submitter may use, in a usable Current; a STASH Region only
where the job is a stash job, a reduction header never as a destination (R188, R238, R248). -/
def codLee (b : Block) (held write stash : Bool) (ep n : Nat) : Bool :=
  (getRegion b (epRegion ep)).any (fun r =>
    (r.held || !held) && curUsable b r.cur && decide (epOff ep + n ≤ r.size) && epOff ep % 16 == 0 &&
      (r.kind = .stash) == stash && !(write && r.kind = .reduce && decide (epOff ep < 64)))

/-- The unit is a Current-attached one of the Current that holds the Region of an endpoint. -/
def unitAtRegion (b : Block) (u region : Nat) : Bool :=
  (unitLink u).isNone && (getRegion b region).any (fun r => r.cur == unitCur u && r.kind = .stash)

/-- The source endpoint of a job is allowed (R189, R246, R247). -/
def codSource (b : Block) (u : Nat) (held : Bool) (j : CodJob) : Bool :=
  epReserved j.src &&
  (match epKind j.src with
   | 0 =>
     if j.unfurl && epKind j.dst == 1 && epClass j.dst == 1 then
       codLee b held false true j.src j.inBytes && unitAtRegion b u (epRegion j.src)
     else codLee b held false false j.src j.inBytes
   | 1 =>
     !j.unfurl && epClass j.src == 1 && unitAtRegion b u (epPeerRegion j.src) && epKind j.dst == 0 &&
       epRegion j.dst == epPeerRegion j.src && epFabOff j.src % 16 == 0
   | 4 => j.unfurl && unitLink u == some (epLink j.src)
   | _ => false)

/-- A destination endpoint of a job is allowed (R185, R189). -/
def codDest (b : Block) (u : Nat) (held : Bool) (j : CodJob) (ep n : Nat) : Bool :=
  epReserved ep &&
  (match epKind ep with
   | 0 => codLee b held true j.stash ep n
   | 1 =>
     j.unfurl && epFabOff ep % 16 == 0 &&
       (epClass ep != 1 || (epKind j.src == 0 && unitAtRegion b u (epRegion j.src)))
   | 2 => !j.unfurl && unitLink u == some (epLink ep) && (epVc ep == 1 || epVc ep == 3)
   | 3 => j.unfurl && (unitLink u).isNone
   | _ => false)

/-- The descriptor keeps every rule (R182, R188, R189, R246, R247, R292). -/
def codFields (b : Block) (u : Nat) (held : Bool) (j : CodJob) (d : Nat) : Bool :=
  isZero d 398 397 && isZero d 446 444 && isZero d 486 484 && isZero d 511 509 &&
  (if bit d 487 then decide (j.depth ≤ 9) && decide (j.window ≤ 4) && decide (j.hash ≤ 16)
   else decide (j.depth ≤ 9)) &&
  !(bit j.gate 15 && j.gcount == 0) && codSource b u held j &&
  (if j.ingress then
     j.dst == 0 && j.sdst == 0 && j.ssrc == 0 && j.inBytes == 0 && j.outLimit == 0 && j.sinBytes == 0 &&
       j.soutLimit == 0 && fld d 447 440 == 0
   else
     codDest b u held j j.dst j.outLimit && (j.unfurl || j.inBytes % 16 == 0) &&
     (if j.paired then
        decide (4 ≤ j.ratio) && decide (j.ratio ≤ 8) && epReserved j.ssrc && epKind j.ssrc == 0 &&
          codLee b held false false j.ssrc j.sinBytes && codDest b u held j j.sdst j.soutLimit && epKind j.sdst != 3 &&
          (j.unfurl || (j.inBytes % (16 * 2 ^ j.ratio) == 0 && j.sinBytes == j.inBytes / 2 ^ j.ratio)) &&
          ((epKind j.dst != 2 && epKind j.sdst != 2) || j.dst == j.sdst)
      else j.ssrc == 0 && j.sdst == 0) &&
     !(leeRange b j.src j.inBytes ++ (if j.paired then leeRange b j.ssrc j.sinBytes else [])).any (fun p =>
        (leeRange b j.dst j.outLimit ++ (if j.paired then leeRange b j.sdst j.soutLimit else [])).any
          (overlaps p)))

/-- An endpoint that the capability record shows absent. -/
def epAbsent (b : Block) (ep : Nat) : Bool :=
  match epKind ep with
  | 1 => !portUp b (epPort ep)
  | 2 => !linkUp b (epLink ep)
  | 4 => !linkUp b (epLink ep)
  | _ => false

/-- The status with which an accepted job ends at once, if it does (R187). -/
def codRefusal (b : Block) (u : Nat) (held : Bool) (j : CodJob) (d : Nat) : Option Nat :=
  if !codFields b u held j d then some 0x20A
  else if !((unitLink u).map (linkPresent b)).getD true || epAbsent b j.src || (!j.ingress && epAbsent b j.dst) ||
      (j.paired && epAbsent b j.sdst) then some 0x20B
  else if j.inBytes = 0 && !j.ingress then some 0
  else none

/-! ## Acceptance (R187) -/

/-- The unit that UNIT 0x10 names: the fewest queued jobs, the lowest index on a tie. -/
def leastQueued (b : Block) : List Nat → Nat → Nat
  | [], best => best
  | u :: r, best =>
    leastQueued b r (if (getCodec b u).queue.length < (getCodec b best).queue.length then u else best)

/-- The units of a kind in a Current. -/
def curUnits (unfurl : Bool) (n : Nat) : List Nat :=
  if unfurl then (List.range 4).map (fun k => 0x100 + 4 * n + k) else (List.range 2).map (fun k => 0x200 + 2 * n + k)

/-- The unit of an offer. -/
def offerUnit (b : Block) (o : CodOffer) : Nat :=
  if 0x20 ≤ o.unit then (if o.unfurl then o.unit - 0x20 else 0x40 + (o.unit - 0x20))
  else
    let l := curUnits o.unfurl o.cur
    if o.unit = 0x10 then leastQueued b l (l.headD 0) else l.getD o.unit (l.headD 0)

/-- An Eddy's offer stands once the COD queue has come to it (R74). -/
def atHead (b : Block) (o : CodFrom) : Bool :=
  match o with
  | .eddy e _ => (queueOf (getEddy b e) 8).head? == some .codJob
  | .host _ => true

/-- The offer leaves its Eddy's queue. -/
def leaveQueue (b : Block) (o : CodFrom) : Block :=
  match o with
  | .eddy e _ => updEddy b e (fun x => setQueue x 8 ((queueOf x 8).drop 1))
  | .host _ => b

/-- The first offer for a unit that no earlier offer of the same Eddy holds back; its place in the list. -/
def firstOffer (b : Block) (u : Nat) : List CodOffer → List CodOffer → Option (Nat × CodOffer)
  | _, [] => none
  | before, o :: r =>
    let behind := match o.origin with
      | .eddy e _ => before.any (fun p => match p.origin with
          | .eddy k _ => k == e
          | .host _ => false)
      | .host _ => false
    if !behind && atHead b o.origin && offerUnit b o == u then some (before.length, o) else firstOffer b u (before ++ [o]) r

/-- DONE of a descriptor is cleared. -/
def clearDone (b : Block) (a : Nat) : Block :=
  let v := leeBytesAt b (a + 0x40) 2
  { leeMerge v.2 0 ((a + 0x40) / 16) 0 ((leBytes 2 (setFld (markedNat v.1).1 15 15 0)).map (fun x => (x, false))) with
    currents := b.currents }

/-- A run at its beginning. -/
def CodRun.fresh (j : CodJob) : CodRun where
  job := j
  inDone := 0
  outDone := 0
  sinDone := 0
  soutDone := 0
  frameIn := 0
  frameOut := 0
  frameSin := 0
  frameSout := 0
  inFrame := false
  scaleFrame := false
  blkInFrame := 0
  dataBlocks := 0
  frames := 0
  blocks := 0
  hist := []
  hdr := none
  pairs := []
  held := []
  waiting := []
  swaiting := []
  shist := []
  fallbacks := 0
  poisoned := 0
  msgLeft := 0
  smsgLeft := 0
  put := 0
  owed := 0
  marks := []
  sure := none
  dropped := false
  inbuf := []
  taken := 0
  staken := 0
  seg := none
  ending := none

/-! ## Job ends (R187, R188, R190) -/

/-- An event of a codec unit; those of a code after the first of the Flow job only coalesce (R191). -/
def codEvent (b : Block) (u code : Nat) : Block :=
  if (getCodec b u).once.contains code then laterReport b (0x2000 + u) code
  else report (updCodec b u (fun c => { c with once := setInsert c.once code })) (0x2000 + u) code 0

/-- An event of a codec unit, k times. -/
def codEvents (b : Block) (u code : Nat) : Nat → Block
  | 0 => b
  | k + 1 => codEvents (codEvent b u code) u code k

/-- Changing the run of a unit. -/
def updRun (b : Block) (u : Nat) (g : CodRun → CodRun) : Block :=
  updCodec b u (fun c => { c with run := c.run.map g })

/-- Bytes 0x42 to 0x7F of the descriptor as the job's last whole block leaves them. -/
def codTail (r : CodRun) : List Byte :=
  let unf := r.job.unfurl
  let open' := r.inFrame || r.scaleFrame && !r.pairs.isEmpty
  let fr (x done : Nat) := if !unf then 0 else if open' then x else done
  leBytes 1 (r.job.tag + r.dataBlocks) ++ [0] ++
    leBytes 4 (r.job.frameNo + r.frames) ++ leBytes 4 r.inDone ++ leBytes 4 r.outDone ++ leBytes 4 r.sinDone ++
    leBytes 4 r.soutDone ++ leBytes 4 (fr r.frameIn r.inDone) ++ leBytes 4 (fr r.frameOut r.outDone) ++
    leBytes 4 r.blocks ++ leBytes 2 r.fallbacks ++ leBytes 2 r.poisoned ++
    leBytes 4 (if r.job.paired then fr r.frameSin r.sinDone else 0) ++
    leBytes 4 (if r.job.paired then fr r.frameSout r.soutDone else 0) ++ leBytes 16 0

/-- Bytes 0x40 to 0x7F of the descriptor: where output was lost, as the last whole block that reached its destination
leaves them. -/
def codRecord (r : CodRun) (code : Nat) : List Byte :=
  leBytes 2 (0x8000 + code) ++ (if r.dropped then r.sure.getD (codTail (CodRun.fresh r.job)) else codTail r)

/-- A whole block has been handed on: its counts stand once its output has met its condition. -/
def markBlock (b : Block) (u : Nat) : Block :=
  updRun b u (fun r =>
    if r.owed = 0 then { r with sure := some (codTail r), marks := [] }
    else { r with marks := r.marks ++ [(r.put, codTail r)] })

/-- An output byte has met the condition of a port or a link. -/
def codecMet (b : Block) (u n : Nat) : Block :=
  updRun b u (fun r =>
    let owed := r.owed - n
    let past := r.marks.filter (fun m => decide (m.1 + owed ≤ r.put))
    { r with owed := owed
             sure := match past.getLast? with
               | some m => some m.2
               | none => r.sure
             marks := r.marks.drop past.length })

/-- The completion record of a job that has ended, its event, and the signal of its Gate (R187, R190). -/
def codFinish (b : Block) (u : Nat) (r : CodRun) (code : Nat) : Block :=
  let j := r.job
  let b := if seamBars b (curHalf (addrCur j.desc)) (unitPlace u).half then seamError b (0x2000 + u)
    else
      let w := leeWriteBytes b 0 (j.desc + 0x40) ((codRecord r code).map (fun x => (x, false)))
      { w with currents := b.currents }
  let b := updCodec b u (fun c => { c with last := code })
  let b := if code = 0 ∨ code = 0x203 ∨ code = 0x504 ∨ code = 0x404 then b else codEvent b u code
  let b := if code = 0x20E then
      { b with job := { b.job with entries := b.job.entries ++ [⟨4, 0, code, j.desc⟩] } } else b
  if bit j.gate 15 then unitSignal b (0x2000 + u) (fld j.gate 12 0) j.gcount else b

/-- A poisoned descriptor: the Task faults, the host's command is refused (R340). -/
def codPoison (b : Block) (o : CodFrom) : Block :=
  match o with
  | .eddy e pc => taskFault b e pc 0x20D
  | .host src => finishCmd b src 0x20D 0 0

/-- The descriptor lies behind a seam without an active channel (R21). -/
def codCut (b : Block) (u : Nat) (o : CodOffer) : Block :=
  match o.origin with
  | .eddy e pc => taskFault b e pc seamLost
  | .host src => finishCmd (seamError b (0x2000 + u)) src (Config.seamLostCode % 4096) 0 0

/-- R187: a unit accepts the next job offered to it, reads and checks its descriptor, and clears DONE; a job that it
refuses, or that has no input, ends at once. -/
def codJobAccept (u : Nat) (b : Block) : Block :=
  if !unitExists u || !unitRuns b u || 4 ≤ (getCodec b u).queue.length then b
  else match firstOffer b u [] b.codOffers with
    | none => b
    | some (i, o) =>
      let b := leaveQueue { b with codOffers := dropAt b.codOffers i } o.origin
      if seamBars b (curHalf (addrCur o.desc)) (unitPlace u).half then codCut b u o
      else
        let d := leeBytesAt b o.desc 64
        let v := markedNat d.1
        if v.2 then codPoison d.2 o.origin
        else
          let held := match o.origin with
            | .eddy _ _ => true
            | .host _ => false
          let j := codJobOf o.unfurl o.desc v.1
          let b := clearDone d.2 o.desc
          let b := match codRefusal d.2 u held j v.1 with
            | some c => codFinish b u (CodRun.fresh j) c
            | none => updCodec b u (fun c => { c with queue := c.queue ++ [j] })
          match o.origin with
          | .eddy _ _ => b
          | .host src => finishCmd b src 0 0 0

def execCodJobAccept (u : Nat) (s : State) := onBlock (clockedStep (codJobAccept u)) s

/-! ## Start (R185, R187, R329) -/

/-- The destination is a tile feed. -/
def CodJob.toFeed (j : CodJob) : Bool := j.unfurl && !j.ingress && epKind j.dst == 3

/-- The feed of a unit's job, by four times the Current plus the feed. -/
def feedOf (u : Nat) (j : CodJob) : Nat := 4 * unitCur u + fld j.dst 49 48

/-- R185: the job at the head of the unit's queue binds its feed once the feed is free. -/
def feedBind (u : Nat) (b : Block) : Block :=
  let c := getCodec b u
  match c.run, c.queue with
  | none, j :: _ =>
    if unitExists u && unitRuns b u && j.toFeed && !(getFeed b (feedOf u j)).bound then
      putFeed b (feedOf u j) ⟨true, fld j.dst 47 44, unitNum u, true, []⟩
    else b
  | _, _ => b

def execFeedBind (u : Nat) (s : State) := onBlock (feedBind u) s

/-- The feed is bound to the job at the head of the unit's queue. -/
def feedReady (b : Block) (u : Nat) (j : CodJob) : Bool :=
  let f := getFeed b (feedOf u j)
  f.bound && f.live && f.unit == unitNum u

/-- A fabric endpoint of the job is on a port that is not UP. -/
def codPortLost (b : Block) (j : CodJob) : Bool :=
  let lost (ep : Nat) : Bool := epKind ep == 1 && !portUp b (epPort ep)
  lost j.src || (!j.ingress && lost j.dst) || (j.paired && lost j.sdst)

/-- A link endpoint of the job is on a link that is not up (R302). -/
def codLinkLost (b : Block) (j : CodJob) : Bool :=
  let lost (ep : Nat) : Bool := epKind ep == 2 && !linkUp b (epLink ep)
  (!j.ingress && lost j.dst) || (j.paired && lost j.sdst)

/-- R187: the unit starts its next accepted job once the job before it has ended. -/
def codJobStart (u : Nat) (b : Block) : Block :=
  let c := getCodec b u
  match c.run, c.queue with
  | none, j :: r =>
    if !unitRuns b u then b
    else if j.toFeed && !feedReady b u j then b
    else
      let ending := if codPortLost b j then some 0x504 else if codLinkLost b j then some 0x404 else none
      putCodec b u { c with queue := r, run := some { CodRun.fresh j with ending := ending } }
  | _, _ => b

def execCodJobStart (u : Nat) (s : State) := onBlock (codJobStart u) s

/-! ## Output (R190, R320) -/

/-- Bytes put to a destination endpoint at a position, in the stream of data or of scales; left is what the open fabric
run still takes. Poisoned granules count in the Current of the unit, or in the one that a link-attached unit writes
(R341). -/
def codPut (b : Block) (u : Nat) (scale : Bool) (ep pos left : Nat) (l : Marked) : Block :=
  let v := moveBytes b (unitPlace u) (codPlace b u ep) l
  let l := v.1
  let b := v.2
  let count (b : Block) : Block :=
    if (unitLink u).isSome then b else countPoison b (unitCur u) (poisonedGrans l)
  let owe (b : Block) : Block := updRun b u (fun r => { r with put := r.put + l.length, owed := r.owed + l.length })
  match epKind ep with
  | 0 =>
    leeWriteBytes b (if (unitLink u).isSome then ((epLee b ep).map (·.cur)).getD 0 else unitCur u) (epAddr b ep + pos) l
  | 1 =>
    let p := feedRun (l.length / 8 + 2) (getPort b (epPort ep)) (epClass ep) (.codec u scale) (epPeerRegion ep)
      (epFabOff ep + pos) left (granulesOf l)
    owe (count (putPort b (epPort ep) p))
  | 2 =>
    let pkts := (chunks l.length 512 l).map (fun p => egressPkt (.codec u p.length) p)
    owe (count (updLink b (epLink ep) (fun k => pkts.foldl (fun k p => pushPkt k (epVc ep) p) k)))
  | _ =>
    let i := 4 * unitCur u + fld ep 49 48
    let f := getFeed b i
    settle (putFeed b i { f with bytes := f.bytes ++ l }) (16 * unitCur u + f.eddy)

/-- An empty message opened for a run of granules on a fabric endpoint (R320). -/
def codOpen (b : Block) (u : Nat) (scale : Bool) (ep pos left : Nat) : Block :=
  if epKind ep = 1 ∧ 0 < left then
    updPort b (epPort ep) (fun p =>
      setTxQueue p (epClass ep) (txQueue p (epClass ep) ++
        [⟨.codec u scale, 0, epPeerRegion ep, epFabOff ep + pos, min left (msgGrans p), [], false, false, 0⟩]))
  else b

/-- A running job finishes no further block and ends with a code; when output is lost with its port or link, what it holds
goes too (R190, R302, R329). A stop's code stands. -/
def endCodec (b : Block) (u code : Nat) (drop : Bool) : Block :=
  let b := updRun b u (fun r =>
    { r with ending := if r.ending = some 0x20E then some 0x20E else some code
             hdr := none
             seg := none
             held := if drop then [] else r.held
             waiting := if drop || r.job.ingress then [] else r.waiting
             swaiting := []
             dropped := r.dropped || drop
             marks := if drop then [] else r.marks
             owed := if drop then 0 else r.owed })
  closeCodec b u

/-! ## Crossing the seam (R15, R21) -/

/-- The job moves data between the halves: by its endpoints, or by the range of its segment. -/
def codecCrosses (b : Block) (u : Nat) (r : CodRun) : Bool :=
  let j := r.job
  let far (ep : Nat) : Bool := (codPlace b u ep).half != (unitPlace u).half
  if j.ingress then
    r.seg.any (fun s =>
      let x := getRange b s.range
      x.state != 0 && (far x.dst || far x.bitmap || (x.paired && far x.sdst)))
  else far j.src || far j.dst || (j.paired && (far j.ssrc || far j.sdst))

/-- The unit's job would have to cross a seam without an active channel. -/
def codecBarred (b : Block) (u : Nat) : Bool :=
  seamDown b && (getCodec b u).run.any (codecCrosses b u)

/-- Such a job ends with the uncontained error. -/
def codecLost (b : Block) (u : Nat) : Block := endCodec (seamError b (0x2000 + u)) u (Config.seamLostCode % 4096) true

/-- Counting blocks and bytes of a unit (R192). -/
def countCodec (b : Block) (u blocks inn out : Nat) : Block :=
  updCodec b u (fun c =>
    { c with blocks := c.blocks + BitVec.ofNat 32 blocks
             bytesIn := c.bytesIn + BitVec.ofNat 64 inn
             bytesOut := c.bytesOut + BitVec.ofNat 64 out })

/-! ## Furl (R170 to R175, R182) -/

/-- Bytes of a coded block with its header. -/
def CodBlk.size (k : CodBlk) : Nat := 16 + k.payload.length

/-- The output bytes that a held block takes in one stream. -/
def heldSize (opens : Bool) (k : CodBlk) : Nat := k.size + (if opens then 32 else 0)

/-- Bytes held in each stream. -/
def heldOut (l : List HeldBlk) : Nat := (l.map (fun h => heldSize h.opens h.data)).sum
def heldSout (l : List HeldBlk) : Nat := (l.map (fun h => (h.scale.map (heldSize h.opens)).getD 0)).sum

/-- A block of a Furl job coded, verified or stored (R172, R173, R175). -/
def furlBlock (j : CodJob) (tag : Nat) (hist : List Byte) (l : Marked) : CodBlk :=
  let raw := l.map (·.1)
  if l.any (·.2) then ⟨0, tag, raw.length, crc32c raw, raw, true⟩
  else
    let c := codeBlock j.depth j.hash j.window hist raw
    ⟨c.1, tag, raw.length, crc32c raw, c.2, false⟩

/-- Bytes of a Lee source as they reach the unit. -/
def codRead (b : Block) (u ep pos n : Nat) : Marked × Block :=
  let d := leeBytesAt b (epAddr b ep + pos) n
  moveBytes d.2 (codPlace b u ep) (unitPlace u) d.1

/-- The bytes of the next data block, once its input is there. -/
def furlInput (b : Block) (u : Nat) (r : CodRun) : Option (Marked × Block) :=
  let n := min 4096 (r.job.inBytes - r.taken)
  if n = 0 then none
  else if r.job.stash then (if n ≤ r.inbuf.length then some (r.inbuf.take n, b) else none)
  else some (codRead b u r.job.src r.taken n)

/-- The job codes further blocks: it is not ending, or it is a stash job out of sequence that still holds whole ones
(R246). -/
def furlGoes (r : CodRun) : Bool :=
  r.ending.isNone || (r.job.stash && r.ending == some 0x60D && decide (r.taken < r.job.inBytes) &&
    decide (min 4096 (r.job.inBytes - r.taken) ≤ r.inbuf.length))

/-- The blocks of one stream stored by R173. -/
def vfbOf (k : CodBlk) : Nat := b2n (bit k.mode 3)

/-- R173, R174, R175: the next block of a Furl job is coded and released to be held, when it fits; else the job ends
with OUT_FULL. -/
def furlBlockRelease (u : Nat) (b : Block) : Block :=
  match (getCodec b u).run with
  | none => b
  | some r =>
    if r.job.unfurl || !furlGoes r || 2 ≤ r.held.length || !unitRuns b u then b
    else if codecBarred b u then codecLost b u
    else match furlInput b u r with
      | none => b
      | some (l, b) =>
        let j := r.job
        let tag := (j.tag + r.dataBlocks) % 256
        let opens := r.dataBlocks % 16 == 0
        let n := l.length
        let data := furlBlock j tag (if opens then [] else r.hist) l
        let sn := n / 2 ^ j.ratio
        let s := if j.paired then codRead b u j.ssrc r.staken sn else ([], b)
        let shist := if opens then [] else r.shist
        let scale := if j.paired then some (furlBlock j tag shist s.1) else none
        let fits := decide (r.outDone + heldOut r.held + heldSize opens data ≤ j.outLimit) &&
          scale.all (fun k => decide (r.soutDone + heldSout r.held + heldSize opens k ≤ j.soutLimit))
        if !fits then updRun s.2 u (fun r => { r with ending := some 0x201 })
        else
          let vfb := vfbOf data + ((scale.map vfbOf).getD 0)
          let b := updRun s.2 u (fun r => { r with
            taken := r.taken + n
            staken := r.staken + (if j.paired then sn else 0)
            inbuf := if j.stash then r.inbuf.drop n else []
            hist := (if opens then [] else r.hist) ++ l.map (·.1)
            shist := shist ++ s.1.map (·.1)
            dataBlocks := r.dataBlocks + 1
            fallbacks := r.fallbacks + vfb
            held := r.held ++ [⟨data, scale, opens, r.taken + n, r.staken + (if j.paired then sn else 0)⟩] })
          let b := countCodec b u 0 (n + s.1.length) 0
          if vfb = 0 then b
          else codEvents (updCodec b u (fun c => { c with errHi := satAdd 16 c.errHi vfb })) u 0x209 vfb

def execFurlBlockRelease (u : Nat) (s : State) := onBlock (clockedStep (furlBlockRelease u)) s

/-- LAST of the first held block, once it is known (R174). -/
def heldLast (r : CodRun) : Option Bool :=
  match r.held with
  | [] => none
  | _ :: n :: _ => some n.opens
  | [_] =>
    if !furlGoes r || r.dataBlocks % 16 == 0 || decide (r.job.inBytes ≤ r.taken) then some true else none

/-- The bytes of a held block, with its frame header when it opens a frame. -/
def blockBytes (j : CodJob) (kind frame : Nat) (opens last : Bool) (k : CodBlk) : Marked :=
  (if opens then (frameHeader kind j.streamId (frame % 2 ^ 32)).map (fun x => (x, false)) else []) ++
    (blockHeader (k.mode + 16 * b2n last) k.tag k.raw k.payload.length k.dcrc ++ k.payload).map (fun x => (x, k.poison))

/-- The data bytes that can go now, and those that wait: on a link the data frame of a paired job waits for its scale
frame (R182). -/
def linkOrder (r : CodRun) (last : Bool) (l : Marked) : Marked × Marked :=
  if r.job.paired && epKind r.job.dst == 2 && !last then ([], r.waiting ++ l) else (r.waiting ++ l, [])

/-- A destination takes output: a link with credit and replay room, a port whose baffle is not full, Lee and a feed while
their clock runs (R28, R213, R309, R396). -/
def epRoom (b : Block) (ep : Nat) : Bool :=
  match epKind ep with
  | 1 => decide (portQueued (getPort b (epPort ep)) (epClass ep) < 256)
  | 2 => linkTakes b (epLink ep) (epVc ep)
  | _ => !b.power.hold

/-- R174, R182: the first held block is written with LAST set or clear. -/
def furlBlockWrite (u : Nat) (b : Block) : Block :=
  match (getCodec b u).run with
  | none => b
  | some r =>
    if !unitRuns b u then b
    else if !r.held.isEmpty && codecBarred b u then codecLost b u
    else if !epRoom b r.job.dst || (r.job.paired && !epRoom b r.job.sdst) then b
    else match r.held, heldLast r with
    | h :: rest, some last =>
      let j := r.job
      let frame := j.frameNo + (if h.opens then r.frames else r.frames - 1)
      let d := blockBytes j 0 frame h.opens last h.data
      let s := (h.scale.map (blockBytes j 1 frame h.opens last)).getD []
      let go := linkOrder r last d
      let b := if s.isEmpty then b else codPut b u true j.sdst r.soutDone 0 s
      let b := if go.1.isEmpty then b else codPut b u false j.dst (r.outDone - r.waiting.length) 0 go.1
      let n := 1 + b2n h.scale.isSome
      countCodec (markBlock (updRun b u (fun r => { r with
        held := rest
        waiting := go.2
        outDone := r.outDone + d.length
        soutDone := r.soutDone + s.length
        inDone := h.inDone
        sinDone := h.sinDone
        frames := if h.opens then r.frames + 1 else r.frames
        blocks := r.blocks + n
        poisoned := r.poisoned + b2n h.data.poison + b2n (h.scale.any (·.poison)) })) u) u n 0 (d.length + s.length)
    | _, _ => b

def execFurlBlockWrite (u : Nat) (s : State) := onBlock (furlBlockWrite u) s

/-! ## Unfurl: input (R179, R292) -/

/-- The next frame or block of the run belongs to the scale stream of a Lee source. -/
def onScale (r : CodRun) : Bool := if r.inFrame then r.scaleFrame else r.job.paired && r.pairs.isEmpty

/-- The range that the segment of an ingress job lands in. -/
def segRange (b : Block) (r : CodRun) : LRange := (r.seg.map (fun s => getRange b s.range)).getD LRange.fresh

/-- The output is paired: by the descriptor, or by the range of the segment. -/
def runPaired (b : Block) (r : CodRun) : Bool := if r.job.ingress then (segRange b r).paired else r.job.paired

/-- Coded bytes that the unit can read now, and whether no more will come. -/
def codedAvail (b : Block) (r : CodRun) : Nat × Bool :=
  if r.job.ingress then (r.inbuf.length, (r.seg.map (·.whole)).getD false)
  else if runPaired b r && onScale r then (r.job.sinBytes - r.staken, true)
  else (r.job.inBytes - r.taken, true)

/-- The next n coded bytes; the read moves no cursor. -/
def codedRead (b : Block) (u : Nat) (r : CodRun) (n : Nat) : Marked × Block :=
  if r.job.ingress then (r.inbuf.take n, b)
  else if onScale r then codRead b u r.job.ssrc r.staken n
  else codRead b u r.job.src r.taken n

/-- The cursor moved past n coded bytes. -/
def codedTake (r : CodRun) (n : Nat) : CodRun :=
  if r.job.ingress then { r with inbuf := r.inbuf.drop n, taken := r.taken + n }
  else if onScale r then { r with staken := r.staken + n }
  else { r with taken := r.taken + n }

/-! ## Ends and damage (R180, R183, R184) -/

/-- The link of an ingress job: the maximal runs of clear bits and single segments ask for a refetch there (R295). -/
def refetchLink (b : Block) (x : LRange) : Option Nat :=
  if linkUp b x.link then some x.link else (List.range 24).find? (linkUp b)

/-- A WS_REFETCH packet for a run of segments. -/
def sendRefetch (b : Block) (range : Nat) (x : LRange) (first n : Nat) : Block :=
  match refetchLink b x with
  | none => b
  | some l =>
    updLink b l (fun k => pushPkt k 2 ⟨.none,
      pktHeader 0x24 0 (range * 2 ^ 64 + x.store * 2 ^ 52 + first * 2 ^ 36 + (n - 1) * 2 ^ 20) 0⟩)

/-- The segment is damaged; under REFETCH 0b10 the block asks for it again at once. -/
def damageSeg (b : Block) (u : Nat) : Block :=
  match (getCodec b u).run with
  | none => b
  | some r =>
    match r.seg with
    | none => b
    | some s =>
      if s.damaged then b
      else
        let x := getRange b s.range
        let b := updRun b u (fun r => { r with seg := some { s with damaged := true } })
        if x.refetch = 2 && decide (s.segno < x.count) then sendRefetch b s.range x s.segno 1 else b

/-- A condition of R180 ends the job, or the segment of an ingress job. -/
def unfurlFail (b : Block) (u code : Nat) : Block :=
  let b := if code = 0x203 then
      updCodec b u (fun c => { c with errLo := satAdd 16 c.errLo 1 }) else b
  match (getCodec b u).run with
  | none => b
  | some r =>
    if r.job.ingress then
      let b := if code = 0x204 then b else codEvent b u code
      let b := closeCodec (damageSeg b u) u
      updRun b u (fun r => { r with
        hdr := none
        inFrame := false
        pairs := []
        inbuf := []
        waiting := []
        swaiting := []
        seg := r.seg.map (fun s => { s with stopped := true }) })
    else
      let b := if code = 0x203 then codEvent b u code else b
      closeCodec (updRun b u (fun r => { r with hdr := none, ending := some code })) u

/-! ## Unfurl: headers (R180, R320) -/

/-- The sum of RAW_BYTES over the block headers of a frame whose first block header lies at a Lee address, as far as
headers are valid and inside the input; fuel bounds the blocks. -/
def frameRaw : Nat → Block → Nat → Nat → Nat
  | 0, _, _, _ => 0
  | k + 1, b, a, left =>
    if left < 16 then 0
    else match blockFields ((leeBytesAt b a 16).1.map (·.1)) with
      | none => 0
      | some (_, last, _, raw, coded, _) =>
        raw + (if last then 0 else frameRaw k b (a + 16 + coded) (left - 16 - coded))

/-- A frame begins at the cursor: its offsets, and its fabric messages. -/
def beginFrame (b : Block) (u : Nat) (r : CodRun) (scale : Bool) : Block :=
  let paired := runPaired b r
  let b := countCodec (updRun b u (fun r =>
    let r := if scale || !paired then { r with
        frameIn := r.taken, frameOut := r.outDone, frameSin := r.staken, frameSout := r.soutDone } else r
    { codedTake r 32 with
      inFrame := true, scaleFrame := scale, blkInFrame := 0, hist := [] })) u 0 32 0
  if r.job.ingress then b
  else if scale then
    let left := frameRaw 16 b (epAddr b r.job.ssrc + r.staken + 32) (r.job.sinBytes - r.staken - 32) / 16
    codOpen (updRun b u (fun r => { r with smsgLeft := left })) u true r.job.sdst r.soutDone left
  else
    let left := frameRaw 16 b (epAddr b r.job.src + r.taken + 32) (r.job.inBytes - r.taken - 32) / 16
    codOpen (updRun b u (fun r => { r with msgLeft := left })) u false r.job.dst r.outDone left

/-- The tag that pair b must carry (R183). -/
def pairTag (r : CodRun) : Nat := (r.job.tag + r.dataBlocks) % 256

/-- Output bytes so far, and the limit, of the stream that the next block belongs to (R178). -/
def limitOf (b : Block) (r : CodRun) (scale : Bool) : Nat × Nat :=
  match r.seg with
  | some s => if scale then (s.sout, (getRange b s.range).ssegBytes) else (s.out, (getRange b s.range).segBytes)
  | none => if scale then (r.soutDone, r.job.soutLimit) else (r.outDone, r.job.outLimit)

/-- A block of n bytes would pass the limit of its stream; with a data block goes the scale block of its pair. -/
def limitPassed (b : Block) (r : CodRun) (scale : Bool) (n : Nat) : Bool :=
  let pass (s : Bool) (k : Nat) : Bool := decide ((limitOf b r s).2 < (limitOf b r s).1 + k)
  pass scale n || (!scale && (r.pairs.head?).any (fun p => pass true p.2.2.length))

/-- A block header has arrived: the checks of R180, items 1 to 6. -/
def blockArrives (b : Block) (u : Nat) (r : CodRun) (h : Marked) (avail : Nat) (closed : Bool) : Block :=
  let scale := r.scaleFrame
  if h.any (·.2) then unfurlFail b u 0x20C
  else if r.blkInFrame = 16 then unfurlFail b u 0x205
  else match blockFields (h.map (·.1)) with
    | none => unfurlFail b u 0x206
    | some (mode, last, tag, raw, coded, dcrc) =>
      let skew := runPaired b r && !scale &&
        (tag != pairTag r || (r.pairs.head?.map (fun p => p.1)) != some (pairTag r))
      if skew then unfurlFail b u 0x203
      else if limitPassed b r scale raw then unfurlFail b u 0x202
      else if closed && decide (avail < 16 + coded) then unfurlFail b u 0x204
      else
        countCodec (updRun b u (fun r => { codedTake r 16 with
          hdr := some ⟨mode, last, tag, raw, coded, dcrc⟩ })) u 0 16 0

/-- The unit stands inside a pair: its scale frame is expanded and its data frame has not come. -/
def midPair (r : CodRun) : Bool := !r.pairs.isEmpty

/-- The output of a range's last segment that waited for its length goes as one message (R320). -/
def segFlush (b : Block) (u : Nat) : Block :=
  match (getCodec b u).run with
  | none => b
  | some r =>
    match r.seg with
    | none => b
    | some s =>
      let x := getRange b s.range
      let b := if r.swaiting.isEmpty then b
        else updRun (codPut b u true x.sdst (s.segno * x.ssegBytes) (r.swaiting.length / 16) r.swaiting) u
          (fun r => { r with swaiting := [] })
      if r.waiting.isEmpty then b
      else updRun (codPut b u false x.dst (s.segno * x.segBytes) (r.waiting.length / 16) r.waiting) u
        (fun r => { r with waiting := [] })

/-- R180: the next frame or block header arrives and is checked. -/
def unfurlHeader (u : Nat) (b : Block) : Block :=
  match (getCodec b u).run with
  | none => b
  | some r =>
    let busy := !r.job.unfurl || r.ending.isSome || r.hdr.isSome || !unitRuns b u ||
      (r.job.ingress && !(r.seg.any (fun s => !s.stopped && !s.ignored && (getRange b s.range).expand)))
    if busy then b
    else if codecBarred b u then codecLost b u
    else
      let paired := runPaired b r
      let (avail, closed) := codedAvail b r
      let need := if r.inFrame then 16 else 32
      if avail < need then
        if !closed then b
        else if avail = 0 && !r.inFrame && !midPair r &&
            (r.job.ingress || !paired || decide (r.job.inBytes ≤ r.taken)) then
          (if r.job.ingress then segFlush b u else updRun b u (fun r => { r with ending := some 0 }))
        else unfurlFail b u 0x204
      else
        let h := codedRead b u r need
        if r.inFrame then blockArrives h.2 u r h.1 avail closed
        else if h.1.any (·.2) then unfurlFail h.2 u 0x20C
        else
          let scale := paired && r.pairs.isEmpty
          match frameKind (h.1.map (·.1)) with
          | none => unfurlFail h.2 u 0x205
          | some kind => if paired && (kind == 1) != scale then unfurlFail h.2 u 0x205 else beginFrame h.2 u r scale

def execUnfurlHeader (u : Nat) (s : State) := onBlock (clockedStep (unfurlHeader u)) s

/-! ## Unfurl: blocks (R177, R183) -/

/-- Every byte with a mark. -/
def markAll (p : Bool) (l : List Byte) : Marked := l.map (fun x => (x, p))

/-- The block decoded: its bytes with their marks, and the code of R177 when it is poisoned by that rule. -/
def expandBlock (h : BlkHdr) (hist : List Byte) (payload : Marked) : Marked × Option Nat :=
  let mark := payload.any (·.2)
  match decodeBlock h.mode h.raw hist (payload.map (·.1)) with
  | none => (markAll true (List.replicate h.raw 0), some 0x207)
  | some d =>
    if crc32c d ≠ h.dcrc then (markAll true d, some 0x208)
    else if h.mode % 4 = 0 then (payload, none)
    else (markAll mark d, none)

/-- The output of an ingress job goes to its range; a fabric message of the range's last segment waits until its length
is known (R293, R320). -/
def segPut (b : Block) (u : Nat) (s : Seg) (scale : Bool) (l : Marked) : Block :=
  let x := getRange b s.range
  let last := x.expand && s.segno + 1 == x.count
  if scale && epKind x.sdst == 1 && last then updRun b u (fun r => { r with swaiting := r.swaiting ++ l })
  else if scale then
    codPut b u true x.sdst (s.segno * x.ssegBytes + s.sout) ((x.ssegBytes - s.sout) / 16) l
  else if epKind x.dst = 1 && last then updRun b u (fun r => { r with waiting := r.waiting ++ l })
  else codPut b u false x.dst (s.segno * x.segBytes + s.out) ((x.segBytes - s.out) / 16) l

/-- A data block, with its scale block, delivered in place. -/
def deliverBlock (b : Block) (u : Nat) (r : CodRun) (d s : Marked) (sinAfter : Nat) : Block :=
  let n := 1 + b2n (runPaired b r)
  let bad := b2n (d.any (·.2)) + b2n (s.any (·.2))
  let b := match r.seg with
    | some g =>
      let b := if s.isEmpty then b else segPut b u g true s
      let b := segPut b u g false d
      let b := if bad = 0 then b else damageSeg b u
      updRun b u (fun r => { r with
        seg := r.seg.map (fun g => { g with out := g.out + d.length, sout := g.sout + s.length }) })
    | none =>
      let b := if s.isEmpty then b else codPut b u true r.job.sdst r.soutDone r.smsgLeft s
      codPut b u false r.job.dst r.outDone r.msgLeft d
  countCodec (updRun b u (fun r => { r with
    outDone := r.outDone + d.length
    soutDone := r.soutDone + s.length
    inDone := r.taken
    sinDone := sinAfter
    msgLeft := r.msgLeft - d.length / 16
    smsgLeft := r.smsgLeft - s.length / 16
    dataBlocks := r.dataBlocks + 1
    blocks := r.blocks + n
    poisoned := r.poisoned + bad
    pairs := r.pairs.drop 1 })) u n 0 (d.length + s.length)

/-- The destinations of the run's output: its own, or those of its segment's range. -/
def runDests (b : Block) (r : CodRun) : List Nat :=
  if r.job.ingress then (if runPaired b r then [(segRange b r).dst, (segRange b r).sdst] else [(segRange b r).dst])
  else if r.job.paired then [r.job.dst, r.job.sdst] else [r.job.dst]

/-- The destination takes another block: a full tile feed, baffle or replay buffer holds it back. -/
def outRoom (b : Block) (u : Nat) (r : CodRun) (raw : Nat) : Bool :=
  (runDests b r).all (epRoom b) &&
    (!r.job.toFeed || decide ((getFeed b (feedOf u r.job)).bytes.length + raw ≤ 8192))

/-- After the last block of a frame: an unfinished frame no longer stands, and a scale block left over is a skew. -/
def endFrame (b : Block) (u : Nat) (scale : Bool) : Block :=
  let b := updRun b u (fun r => { r with inFrame := false })
  if scale then b
  else match (getCodec b u).run with
    | none => b
    | some r => if r.pairs.isEmpty then b else unfurlFail b u 0x203

/-- R177, R183: the decoded block is released after its checks. -/
def unfurlBlockRelease (u : Nat) (b : Block) : Block :=
  match (getCodec b u).run with
  | none => b
  | some r =>
    match r.hdr with
    | none => b
    | some h =>
      let (avail, closed) := codedAvail b r
      if r.ending.isSome || !unitRuns b u || (b.power.hold && !r.job.ingress) || (!r.scaleFrame && !outRoom b u r h.raw) then b
      else if codecBarred b u then codecLost b u
      else if avail < h.coded then (if closed then unfurlFail b u 0x204 else b)
      else
        let p := codedRead b u r h.coded
        let x := expandBlock h r.hist p.1
        let b := countCodec (updRun p.2 u (fun r => { codedTake r h.coded with
          hdr := none, blkInFrame := r.blkInFrame + 1, hist := r.hist ++ x.1.map (·.1) })) u 0 h.coded 0
        let b := match x.2 with
          | some code => codEvent (updCodec b u (fun c => { c with errHi := satAdd 16 c.errHi 1 })) u code
          | none => b
        let after := r.staken + h.coded
        let b :=
          if r.scaleFrame then updRun b u (fun r => { r with pairs := r.pairs ++ [(h.tag, after, x.1)] })
          else
            match (getCodec b u).run with
            | none => b
            | some r =>
              (match r.pairs with
               | (_, a, s) :: _ => deliverBlock b u r x.1 s a
               | [] => deliverBlock b u r x.1 [] r.sinDone)
        let b := if h.last then endFrame b u r.scaleFrame else b
        if r.scaleFrame then b else markBlock b u

def execUnfurlBlockRelease (u : Nat) (s : State) := onBlock (unfurlBlockRelease u) s

/-! ## The end of a job (R187, R188, R190) -/

/-- Everything the job had to write has met its destination, and its end is known. -/
def codEnds (r : CodRun) : Option Nat :=
  if !r.held.isEmpty || r.owed != 0 || (!r.waiting.isEmpty && !r.job.ingress) ||
      (r.ending.isSome && !r.job.unfurl && furlGoes r) then none
  else match r.ending with
    | some c => some c
    | none => if !r.job.unfurl && decide (r.job.inBytes ≤ r.taken) then some 0 else none

/-- The feed of an ended job: free once it is empty. -/
def feedEnd (b : Block) (u : Nat) (j : CodJob) : Block :=
  if j.toFeed then
    let f := getFeed b (feedOf u j)
    if f.unit = unitNum u ∧ f.live = true then
      putFeed b (feedOf u j) (if f.bytes.isEmpty then Feed.fresh else { f with live := false })
    else b
  else b

/-- R190: the job writes its completion record and then signals its Gate. -/
def codJobEnd (u : Nat) (b : Block) : Block :=
  match (getCodec b u).run with
  | none => b
  | some r =>
    match codEnds r with
    | none => b
    | some code =>
      let b := updCodec (closeCodec (feedEnd b u r.job) u) u (fun c => { c with run := none })
      let b := codFinish b u r code
      if r.job.toFeed then settle b (16 * unitCur u + fld r.job.dst 47 44) else b

def execCodJobEnd (u : Nat) (s : State) := onBlock (clockedStep (codJobEnd u)) s

/-- R192: CLR_COUNTS, at a unit of a link or of an enabled Current (R13). -/
def codClr (u : Nat) (b : Block) : Block :=
  if !unitExists u || !((unitLink u).map (linkPresent b)).getD (curUsable b (unitCur u)) then b
  else updCodec b u (fun c => { c with blocks := 0, bytesIn := 0, bytesOut := 0, inHi := 0, outHi := 0, errHi := 0, errLo := 0 })

def execCodCtrlClrCounts (u : Nat) (s : State) := onBlock (codClr u) s

end Sys2Proof.Machine
end

