-- ==== Sys2Proof/Machine/Crypto.lean ====
section
/-! DEFINITION. The standard algorithms that the manual names and does not restate: AES-256 (FIPS 197), GCM (NIST SP
800-38D), AES key wrap (NIST SP 800-38F), SHA-384 (FIPS 180-4) and ECDSA over P-384 (FIPS 186-5) (R303, R405, R410,
R415; log 11: PRESUMED, from those standards). -/

namespace Sys2Proof.Machine

/-! ## AES-256 -/

/-- x times the polynomial x in the field of AES. -/
def aesX (x : Nat) : Nat := if 128 ≤ x then (2 * x) ^^^ 0x11B else 2 * x

/-- A product in the field of AES, by n bits of the second factor. -/
def aesMulN : Nat → Nat → Nat → Nat
  | 0, _, _ => 0
  | k + 1, x, y => (if y % 2 = 1 then x else 0) ^^^ aesMulN k (aesX x) (y / 2)

def aesMul (x y : Nat) : Nat := aesMulN 8 x y

/-- x to the power 254: its inverse, 0 for 0. -/
def aesInv (x : Nat) : Nat :=
  let x2 := aesMul x x
  let x3 := aesMul x2 x
  let x6 := aesMul x3 x3
  let x12 := aesMul x6 x6
  let x14 := aesMul x12 x2
  let x15 := aesMul x12 x3
  let x30 := aesMul x15 x15
  let x60 := aesMul x30 x30
  let x120 := aesMul x60 x60
  let x240 := aesMul x120 x120
  aesMul x240 x14

/-- A byte rotated left. -/
def rotl8 (x n : Nat) : Nat := (x <<< n ||| x >>> (8 - n)) % 256

/-- The S-box and its inverse. -/
def aesSub (x : Nat) : Nat :=
  let y := aesInv x
  y ^^^ rotl8 y 1 ^^^ rotl8 y 2 ^^^ rotl8 y 3 ^^^ rotl8 y 4 ^^^ 0x63

def aesUnsub (x : Nat) : Nat :=
  aesInv (rotl8 x 1 ^^^ rotl8 x 3 ^^^ rotl8 x 6 ^^^ 5)

/-- Bytes as numbers and back. -/
def toNats (l : List Byte) : List Nat := l.map (·.toNat)
def ofNats (l : List Nat) : List Byte := l.map (BitVec.ofNat 8)

/-- Exclusive or of two lists. -/
def xorList (a b : List Nat) : List Nat := List.zipWith (fun x y => x ^^^ y) a b

/-- The key schedule from word i on, given the words so far, latest first. -/
def aesWords : Nat → Nat → Nat → List (List Nat) → List (List Nat)
  | 0, _, _, ws => ws
  | k + 1, i, rc, ws =>
    let t := ws.headD []
    let rot := (t.drop 1 ++ t.take 1).map aesSub
    let u := if i % 8 = 0 then xorList rot [rc, 0, 0, 0] else if i % 8 = 4 then t.map aesSub else t
    aesWords k (i + 1) (if i % 8 = 0 then aesX rc else rc) (xorList (ws.getD 7 []) u :: ws)

/-- The 15 round keys of a 32-byte key. -/
def aesKeys (key : List Nat) : List (List Nat) :=
  (chunks 15 4 (aesWords 52 8 1 (chunks 8 4 key).reverse).reverse).map (fun w => w.flatten)

/-- Row r of the state rotated left by r columns; s is the power of that rotation. -/
def aesShift (s : Nat) (l : List Nat) : List Nat :=
  (List.range 16).map (fun i => l.getD ((i + 4 * s * (i % 4)) % 16) 0)

/-- One column times a row of factors. -/
def aesColumn (f c : List Nat) : List Nat :=
  (List.range 4).map (fun r =>
    (List.range 4).foldl (fun a i => a ^^^ aesMul (c.getD i 0) (f.getD ((i + 4 - r) % 4) 0)) 0)

def aesMix (f l : List Nat) : List Nat := (chunks 4 4 l).flatMap (aesColumn f)

/-- The rounds of a block under the keys that are left. -/
def aesRounds : List (List Nat) → List Nat → List Nat
  | [], l => l
  | [k], l => xorList (aesShift 1 (l.map aesSub)) k
  | k :: r, l => aesRounds r (xorList (aesMix [2, 3, 1, 1] (aesShift 1 (l.map aesSub))) k)

/-- A block encrypted under round keys. -/
def aesEncrypt (ks : List (List Nat)) (l : List Nat) : List Nat := aesRounds (ks.drop 1) (xorList l (ks.headD []))

/-- The rounds backwards. -/
def aesUnrounds : List (List Nat) → List Nat → List Nat
  | [], l => l
  | [k], l => xorList ((aesShift 3 l).map aesUnsub) k
  | k :: r, l => aesUnrounds r (aesMix [14, 11, 13, 9] (xorList ((aesShift 3 l).map aesUnsub) k))

/-- A block decrypted under round keys. -/
def aesDecrypt (ks : List (List Nat)) (l : List Nat) : List Nat :=
  aesUnrounds (ks.reverse.drop 1) (xorList l (ks.reverse.headD []))

/-- A big-endian number. -/
def beNat (l : List Nat) : Nat := l.foldl (fun a x => 256 * a + x) 0

/-- The n low bytes of a number, most significant first. -/
def beBytes (n x : Nat) : List Nat := (List.range n).map (fun i => (x >>> (8 * (n - 1 - i))) % 256)

/-! ## GCM -/

/-- A product in the field of GHASH, over n bits of the first factor from its most significant. -/
def ghashMulN : Nat → Nat → Nat → Nat → Nat
  | 0, _, _, z => z
  | k + 1, x, v, z =>
    ghashMulN k x (if v % 2 = 1 then (v / 2) ^^^ (0xE1 <<< 120) else v / 2) (if bit x k then z ^^^ v else z)

def ghashMul (x y : Nat) : Nat := ghashMulN 128 x y 0

/-- Bytes filled with zeros to a whole number of blocks, as numbers. -/
def gcmBlocks (l : List Nat) : List Nat :=
  (chunks (l.length + 1) 16 l).map (fun c => beNat (c ++ List.replicate (16 - c.length) 0))

/-- The tag of a ciphertext with its additional data, for a 12-byte IV. -/
def gcmTag (ks : List (List Nat)) (iv aad ct : List Nat) : List Nat :=
  let h := beNat (aesEncrypt ks (List.replicate 16 0))
  let s := (gcmBlocks aad ++ gcmBlocks ct ++ [8 * aad.length * 2 ^ 64 + 8 * ct.length]).foldl
    (fun y x => ghashMul (y ^^^ x) h) 0
  xorList (beBytes 16 s) (aesEncrypt ks (iv ++ [0, 0, 0, 1]))

/-- The key stream of blocks from block i on (block 0 of the text is counter 2). -/
def gcmStream (ks : List (List Nat)) (iv : List Nat) : Nat → Nat → List Nat
  | 0, _ => []
  | k + 1, i => aesEncrypt ks (iv ++ beBytes 4 (i + 2)) ++ gcmStream ks iv k (i + 1)

/-- The part of a text at a byte offset, encrypted or decrypted. -/
def gcmCrypt (ks : List (List Nat)) (iv : List Nat) (off : Nat) (l : List Nat) : List Nat :=
  xorList l ((gcmStream ks iv (l.length / 16 + 2) (off / 16)).drop (off % 16))

/-! ## Key wrap -/

/-- The steps of unwrapping, from step t down: A and R[1..n]. -/
def kwSteps (ks : List (List Nat)) (n : Nat) : Nat → List Nat → List (List Nat) → List Nat × List (List Nat)
  | 0, a, r => (a, r)
  | t + 1, a, r =>
    let i := t % n
    let b := aesDecrypt ks (xorList a (beBytes 8 (t + 1)) ++ r.getD i [])
    kwSteps ks n t (b.take 8) (r.set i (b.drop 8))

/-- A 40-byte blob unwrapped to 32 bytes, when its integrity value is right. -/
def kwUnwrap (key blob : List Nat) : Option (List Nat) :=
  let c := chunks 5 8 blob
  let x := kwSteps (aesKeys key) 4 24 (c.headD []) (c.drop 1)
  if x.1 = List.replicate 8 0xA6 then some x.2.flatten else none

/-! ## SHA-384 -/

/-- The largest r below 2^k above r0 with r^e at most x, by bits from k − 1 down. -/
def rootN (e x : Nat) : Nat → Nat → Nat
  | 0, r => r
  | k + 1, r => rootN e x k (if (r + 2 ^ k) ^ e ≤ x then r + 2 ^ k else r)

/-- The first 80 primes. -/
def primes80 : List Nat :=
  ((List.range 410).filter (fun n => decide (2 ≤ n) && (List.range n).all (fun d => decide (d < 2) || n % d != 0)))

/-- The 80 round constants: 64 bits of the fractions of cube roots. -/
def shaK : List Nat := primes80.map (fun p => rootN 3 (p * 2 ^ 192) 68 0 % 2 ^ 64)

/-- The initial value of SHA-384: 64 bits of the fractions of square roots. -/
def shaInit : List Nat := ((primes80.drop 8).take 8).map (fun p => rootN 2 (p * 2 ^ 128) 70 0 % 2 ^ 64)

def rotr64 (x n : Nat) : Nat := (x >>> n ||| x <<< (64 - n)) % 2 ^ 64

/-- The message schedule, latest word first. -/
def shaWords : Nat → List Nat → List Nat
  | 0, w => w
  | k + 1, w =>
    let a := w.getD 14 0
    let e := w.getD 1 0
    let s0 := rotr64 a 1 ^^^ rotr64 a 8 ^^^ a >>> 7
    let s1 := rotr64 e 19 ^^^ rotr64 e 61 ^^^ e >>> 6
    shaWords k ((w.getD 15 0 + s0 + w.getD 6 0 + s1) % 2 ^ 64 :: w)

/-- One round on a to h. -/
def shaRound (v : List Nat) (kw : Nat) : List Nat :=
  match v with
  | [a, b, c, d, e, f, g, h] =>
    let s1 := rotr64 e 14 ^^^ rotr64 e 18 ^^^ rotr64 e 41
    let ch := (e &&& f) ^^^ ((2 ^ 64 - 1 - e) &&& g)
    let t1 := h + s1 + ch + kw
    let s0 := rotr64 a 28 ^^^ rotr64 a 34 ^^^ rotr64 a 39
    let mj := (a &&& b) ^^^ (a &&& c) ^^^ (b &&& c)
    [(t1 + s0 + mj) % 2 ^ 64, a, b, c, (d + t1) % 2 ^ 64, e, f, g]
  | _ => v

/-- The hash value after a block of 128 bytes. -/
def shaBlock (hv l : List Nat) : List Nat :=
  let w := (shaWords 64 ((chunks 16 8 l).map beNat).reverse).reverse
  let v := (List.zipWith (fun k x => k + x) shaK w).foldl shaRound hv
  List.zipWith (fun a b => (a + b) % 2 ^ 64) hv v

/-- SHA-384 as a number of 384 bits, most significant byte first. -/
def sha384 (l : List Nat) : Nat :=
  let pad := l ++ [0x80] ++ List.replicate ((239 - l.length % 128) % 128) 0 ++ beBytes 16 (8 * l.length)
  let v := (chunks (pad.length / 128) 128 pad).foldl shaBlock shaInit
  (v.take 6).foldl (fun a x => 2 ^ 64 * a + x) 0

/-! ## ECDSA over P-384 -/

def ecP : Nat := 2 ^ 384 - 2 ^ 128 - 2 ^ 96 + 2 ^ 32 - 1
def ecN : Nat :=
  0xFFFFFFFFFFFFFFFFFFFFFFFFFFFFFFFFFFFFFFFFFFFFFFFFC7634D81F4372DDF581A0DB248B0A77AECEC196ACCC52973
def ecB : Nat :=
  0xB3312FA7E23EE7E4988E056BE3F82D19181D9C6EFE8141120314088F5013875AC656398D8A2ED19D2A85C8EDD3EC2AEF
def ecG : Nat × Nat :=
  (0xAA87CA22BE8B05378EB1C71EF320AD746E1D3B628BA79B9859F741E082542A385502F25DBF55296C3A545E3872760AB7,
   0x3617DE4A96262C6F5D9E98BF9292DC29F8F41DBD289A147CE9DA3113B5F0B8C00A60B1CE1D7E819D7A431D7C90EA0E5F)

/-- x to the power e modulo m, over n bits of e. -/
def powMod (m : Nat) : Nat → Nat → Nat → Nat
  | 0, _, _ => 1
  | k + 1, x, e =>
    let r := powMod m k (x * x % m) (e / 2)
    if e % 2 = 1 then x * r % m else r

/-- The inverse modulo a prime. -/
def invMod (m x : Nat) : Nat := powMod m 384 (x % m) (m - 2)

/-- The sum of two points; none is the point at infinity. -/
def ecAdd (a b : Option (Nat × Nat)) : Option (Nat × Nat) :=
  match a, b with
  | none, q => q
  | p, none => p
  | some (x, y), some (u, v) =>
    if x = u ∧ (y + v) % ecP = 0 then none
    else
      let l := if x = u ∧ y = v then (3 * x * x + (ecP - 3)) * invMod ecP (2 * y) % ecP
        else (v + ecP - y) * invMod ecP (u + ecP - x) % ecP
      let z := (l * l + 2 * ecP - x - u) % ecP
      some (z, (l * (x + ecP - z) + ecP - y) % ecP)

/-- A multiple of a point, over n bits of the factor. -/
def ecMul : Nat → Nat → Option (Nat × Nat) → Option (Nat × Nat)
  | 0, _, _ => none
  | k + 1, n, p =>
    let r := ecMul k (n / 2) (ecAdd p p)
    if n % 2 = 1 then ecAdd p r else r

/-- The coordinates are a point of the curve. -/
def ecOn (x y : Nat) : Bool :=
  decide (x < ecP) && decide (y < ecP) && (y * y) % ecP == (x * x * x + (ecP - 3) * x + ecB) % ecP

/-- ECDSA verification of a hash under a public key (x, y) with the signature (r, s). -/
def ecVerify (x y hash r s : Nat) : Bool :=
  if ecOn x y && decide (0 < r) && decide (r < ecN) && decide (0 < s) && decide (s < ecN) then
    let w := invMod ecN s
    match ecAdd (ecMul 384 (hash * w % ecN) (some ecG)) (ecMul 384 (r * w % ecN) (some (x, y))) with
    | none => false
    | some p => p.1 % ecN == r
  else false

end Sys2Proof.Machine
end

