-- ==== Sys2Proof/Machine/Links.lean ====
section
/-! DEFINITION. The link controllers: framing, flits in both directions, replay, credits, packets of VC2 and VC3, the
receive side of VC0, encryption, training, retrain and lane retirement (R269 to R285, R297 to R307). -/

namespace Sys2Proof.Machine

/-! ## The line signal (R271) -/

/-- α·x in GF(2^10) with α^10 + α^3 + 1 = 0 (log 30). -/
def rsX (x : Nat) : Nat := if 512 ≤ x then (2 * x) % 1024 ^^^ 9 else 2 * x

/-- A product in GF(2^10), by bits of the second factor. -/
def rsMulN : Nat → Nat → Nat → Nat
  | 0, _, _ => 0
  | k + 1, x, y => (if y % 2 = 1 then x else 0) ^^^ rsMulN k (rsX x) (y / 2)

def rsMul (x y : Nat) : Nat := rsMulN 10 x y

/-- α to a power. -/
def rsPow : Nat → Nat
  | 0 => 1
  | k + 1 => rsX (rsPow k)

/-- The generator polynomial with n roots 1, α, …, highest coefficient first (the leading 1 left out). -/
def rsGen : Nat → List Nat
  | 0 => []
  | n + 1 =>
    let g := 1 :: rsGen n
    let r := rsPow n
    (List.zipWith (fun a b => a ^^^ rsMul r b) (g.drop 1 ++ [0]) g)

/-- The 30 parity symbols of a message, first symbol first. -/
def rsParity (m : List Nat) : List Nat :=
  let g := rsGen 30
  m.foldl (fun reg s =>
    let f := s ^^^ reg.headD 0
    List.zipWith (fun a b => a ^^^ rsMul f b) (reg.drop 1 ++ [0]) g) (List.replicate 30 0)

/-- The active physical lanes, ascending: by logical lane (R297). -/
def activeList (k : Link) : List Nat := (List.range 17).filter (fun i => (k.lanes.toList.getD i Lane.fresh).state == 0)

/-- The active lanes of a link. -/
def activeLanes (k : Link) : Nat := (k.lanes.toList.filter (fun x => x.state == 0)).length

/-- The symbols of a lane after the bits that wait on it: the lane cycles that are full, and the bits left (R270). -/
def laneCycles (part : Nat × Nat) (l : List (BitVec 10)) : List (BitVec 256) × (Nat × Nat) :=
  let v := l.foldl (fun (p : Nat × Nat) s => (p.1 + s.toNat * 2 ^ p.2, p.2 + 10)) part
  let n := v.2 / 256
  ((List.range n).map (fun i => BitVec.ofNat 256 (v.1 >>> (256 * i))), (v.1 >>> (256 * n), v.2 - 256 * n))

/-- A flit joins the message bitstream; a message that is then complete is coded and dealt to the logical lanes. -/
def lineOut (k : Link) (flit : BitVec 4096) : Link :=
  let v := k.txRest + flit.toNat <<< k.txRestLen
  let n := (k.txRestLen + 4096) / 10
  let syms := k.txBits ++ (List.range n).map (fun i => BitVec.ofNat 10 (v >>> (10 * i)))
  let k := { k with txRest := v >>> (10 * n), txRestLen := k.txRestLen + 4096 - 10 * n }
  if syms.length < 514 then { k with txBits := syms, txd := [] }
  else
    let m := syms.take 514
    let word := m ++ (rsParity (m.map (·.toNat))).map (BitVec.ofNat 10)
    let lanes := activeLanes k
    let dealt := (List.range lanes).map (fun i =>
      ((List.range 544).filter (fun j => (k.txDealt + j) % lanes == i)).map (fun j => word.getD j 0))
    let out := dealt.zipIdx.map (fun p => laneCycles (k.txPart.getD p.2 (0, 0)) p.1)
    { k with
      txBits := syms.drop 514
      txLanes := dealt
      txPart := out.map (·.2)
      txd := List.zip (activeList k) (out.map (·.1))
      txDealt := if lanes = 0 then 0 else (k.txDealt + 544) % lanes
      txWords := k.txWords + 1 }

/-! ## Events -/

/-- An event of a link. -/
def linkEvent (b : Block) (l code : Nat) (detail : BitVec 128) : Block := report b (0x4000 + l) code detail

/-- An event of a lane of a link. -/
def laneEvent (b : Block) (l lane code : Nat) (detail : BitVec 128) : Block :=
  report b (0x4400 + 32 * lane + l) code detail

/-- A PROTOCOL discard. -/
def protocol (b : Block) (l : Nat) : Block := linkEvent b l 0x409 0

/-! ## PAUSE (R285) -/

/-- Words that the catch queue can still take. -/
def cqFree (k : Link) : Nat := 65536 - k.catchQ.length

/-- PAUSE after a change of its condition. -/
def nextPause (k : Link) : Bool :=
  if cqFree k < k.cqOn ∨ 3 ≤ k.state then true
  else if k.cqOff ≤ cqFree k ∧ k.state = 2 then false
  else k.pause

def pause (l : Nat) (b : Block) : Block :=
  if linkPresent b l then updLink b l (fun k => { k with pause := nextPause k }) else b

def execPause (l : Nat) (s : State) := onBlock (pause l) s

/-! ## Replay (R278, R279) -/

/-- Sequence number s lies before t, by at most 32,768. -/
def seqBefore (s t : Nat) : Bool :=
  let d := (t + 65536 - s) % 65536
  decide (1 ≤ d) && decide (d ≤ 32768)

/-- Covered entries leave the buffer oldest first. -/
def freeOldest : List ReplayEntry → List ReplayEntry
  | [] => []
  | e :: r => if e.acked then freeOldest r else e :: r

/-- An acknowledgment of every flit of a VC before a sequence number. -/
def ackReplay (vc s : Nat) (l : List ReplayEntry) : List ReplayEntry :=
  freeOldest (l.map (fun e => if e.vc == vc && seqBefore e.seq s then { e with acked := true, due := false } else e))

/-- The entry belongs to a replay of a VC from s on. -/
def inReplay (vc s : Nat) (e : ReplayEntry) : Bool :=
  e.vc == vc && !e.acked && (e.seq == s || seqBefore s e.seq)

/-- An entry that would be sent a ninth time without an acknowledgment. -/
def replayLimit (vc s : Nat) (k : Link) : Bool := k.replay.any (fun e => inReplay vc s e && decide (8 ≤ e.sends))

/-- The entries of a VC from s on are to be sent again. -/
def markReplay (vc s : Nat) (k : Link) : Link :=
  { k with replay := k.replay.map (fun e => if inReplay vc s e then { e with due := true } else e)
           replays := satAdd 16 k.replays 1 }

/-! ## Lanes -/

/-- The corrected symbols of a lane among the flits remembered (R299). -/
def laneNear (k : Link) (i : Nat) : Nat :=
  ((k.corrHist.flatMap (fun l => l)).filter (fun p => p.1 == i)).foldl (fun a p => a + p.2) 0

def getLane (k : Link) (i : Nat) : Lane := k.lanes.toList.getD i Lane.fresh

def setLane (k : Link) (i : Nat) (x : Lane) : Link :=
  if h : i < 17 then { k with lanes := k.lanes.set i x h } else k

/-- Physical lanes in a state, ascending. -/
def lanesIn (k : Link) (st : Nat) : List Nat := (List.range 17).filter (fun i => (getLane k i).state == st)

/-- The first of some lanes with the largest count. -/
def worstOf (k : Link) : List Nat → Nat → Nat
  | [], best => best
  | i :: r, best => worstOf k r (if laneNear k best < laneNear k i then i else best)

/-- The active lane with the most corrected symbols, the lowest index on a tie. -/
def worstLane (k : Link) : Nat := worstOf k (lanesIn k 0) ((lanesIn k 0).headD 0)

/-- The lane is usable (R297). -/
def laneUsable (b : Block) (k : Link) (i : Nat) : Bool :=
  (getLane k i).state != 2 && (getLane k i).rdy && (decide (i < 16) || b.start.straps.spares)

/-- LNK_LANE_EN_l: the bits of the lanes that are active, spare or in training; 0 on every lane while a reset holds, in
Calm mode and on a link that is not populated (R24, R270, R301, R367, R377). -/
def laneEn (b : Block) (l i : Nat) : Bool :=
  let k := getLink b l
  linkPresent b l && b.start.phase != .reset && decide (i < 17) &&
    (decide ((getLane k i).state < 2) || (k.state == 1 && laneUsable b k i))

/-- Usable lanes, ascending. -/
def usableLanes (b : Block) (k : Link) : List Nat := (List.range 17).filter (laneUsable b k)

def minLanesOf (k : Link) : Nat := max 1 (min 16 k.minLanes)

/-- Active lanes that a link keeps without some lane: the spare takes its place when it is usable. -/
def lanesWithout (b : Block) (k : Link) (lane : Nat) : List Nat :=
  ((List.range 17).filter (fun i => i != lane &&
    ((getLane k i).state == 0 || ((getLane k i).state == 1 && laneUsable b k i)))).take 16

/-! ## Down (R302) -/

/-- The transfer uses a link: as its destination, by its page, or by requests that are out. -/
def usesLink (b : Block) (l sid : Nat) (s : Stream) (x : Xfer) : Bool :=
  (epKind x.dst == 2 && epLink x.dst == l) ||
    (isRemote x && (s.page.any (fun g => g.link == l) ||
      (getLink b l).tags.any (fun t => t.2.req.any (fun q => q.1 == some sid))))

/-- The item that ends a VC0 packet in progress. -/
def cutItem (k : Link) : Link :=
  { k with v0 := if 0 < k.rx0.left then k.v0 ++ [.cut] else k.v0
           rx0 := { k.rx0 with part := [], left := 0, lost := true } }

/-- R302: a link goes DOWN. -/
def takeDown (b : Block) (l : Nat) : Block :=
  let up := linkUp b l
  let ends := b.streams.filter (fun p => p.2.active.any (usesLink b l p.1 p.2))
  let b := updLink b l (fun k => { cutItem k with
    state := 0
    step := 0
    retiring := none
    phyRst := false
    lanes := k.lanes.map (fun x => { x with state := if x.state = 2 then 2 else 3, logical := 0, qualified := 0 })
    replay := []
    replayAll := false
    naks := []
    txd := []
    tx1 := []
    tx2 := []
    tx3 := []
    cut1 := 0
    cut2 := 0
    cut3 := 0
    in2 := []
    in3 := []
    tags := k.tags.map (fun t => (t.1, { t.2 with req := none }))
    writes := k.writes.map (fun w => { w with live := false })
    encTx := false
    encRx := false
    rxFlits := []
    txFlits := [] })
  let b := ends.foldl (fun b p => endActive b p.1 0x404 true) b
  let b := if (getCodec b (0x40 + l)).run.isSome then endCodec b (0x40 + l) 0x404 true else b
  let b := if (getCodec b l).run.any (fun r => !r.job.ingress) then endCodec b l 0x404 false else b
  let b := linkEvent b l 0x404 0
  if up then bumpRecord b else b

/-! ## Retrain and retirement (R299 to R301) -/

/-- A training step begins (R297). -/
def enterStep (b : Block) (k : Link) (n : Nat) : Link := { k with step := n, stepAt := b.start.portCycle }

/-- Training and retrain go back to step 2. -/
def backToTwo (b : Block) (k : Link) : Link :=
  { enterStep b k 2 with clean := 0, lanes := k.lanes.map (fun x => { x with words := 0, map := 0 }) }

/-- The LANE_RETIRE packet of a lane (R275). -/
def retirePkt (lane : Nat) : LinkPkt := ⟨.none, pktHeader 0x40 0 (lane * 2 ^ 67) 0⟩

/-- R301: an UP link begins to retire the first lane that is qualified: LANE_RETIRE is to be sent unless the partner has
sent its own, and the link is in HOLD. -/
def nextRetire (b : Block) (l : Nat) : Block :=
  let k := getLink b l
  if k.state ≠ 2 then b
  else match (List.range 17).find? (fun i => (getLane k i).qualified != 0 && decide ((getLane k i).state < 2)) with
    | none => b
    | some i =>
      putLink b l { (if (getLane k i).qualified = 1 then pushPkt k 3 (retirePkt i) else k) with
        retiring := some i, state := 3, pause := true }

/-- A lane is to be retired, by its own qualification or by the partner's word. -/
def markRetire (b : Block) (l lane how : Nat) : Block :=
  nextRetire (updLink b l (fun k => setLane k lane { getLane k lane with qualified := max how (getLane k lane).qualified })) l

/-- A lane qualifies: it is retired at once, or only reported (R300). -/
def qualifyLane (b : Block) (l lane how : Nat) : Block :=
  let k := getLink b l
  if 2 ≤ (getLane k lane).state then b
  else if k.auto then markRetire b l lane how
  else laneEvent b l lane 0x403 0

/-- A retrain starts and counts against a lane. -/
def startRetrain (b : Block) (l lane : Nat) : Block :=
  let now := b.start.portCycle
  let second := b.start.portRun * 1000000
  let k := getLink b l
  let x := getLane k lane
  let recent := now :: x.recent.filter (fun t => decide (now < t + second))
  let k := setLane k lane { x with retrains := satAdd 8 x.retrains 1, recent := recent }
  let k := { k with
    state := 4, step := 2, stepAt := now, blame := lane, pause := true, uncorrRun := 0, clean := 0
    lanes := k.lanes.map (fun x => { x with words := 0, map := 0 }) }
  let b := laneEvent (putLink b l k) l lane 0x402 0
  if max 1 k.retrainLimit ≤ recent.length then qualifyLane b l lane 1 else b

/-- A retrain of a link that is UP. -/
def retrainUp (b : Block) (l lane : Nat) : Block :=
  if linkPresent b l && (getLink b l).state == 2 then startRetrain b l lane else b

/-- A NAK or a timeout makes the block replay a VC, or retrain at the limit of R279. -/
def replayFrom (b : Block) (l vc s : Nat) : Block :=
  let k := getLink b l
  if replayLimit vc s k then retrainUp b l (worstLane k) else putLink b l (markReplay vc s k)

/-- R279: an entry of a VC is unacknowledged 8 µs after it was last sent. -/
def replayTimeout (l vc : Nat) (b : Block) : Block :=
  let k := getLink b l
  match k.replay.find? (fun e => e.vc == vc && !e.acked && !e.due) with
  | none => b
  | some e =>
    if !linkPresent b l || !(k.state == 2 || k.state == 3) then b
    else if replayLimit vc e.seq k then retrainUp b l (worstLane k)
    else
      linkEvent (updLink b l (fun k => { markReplay vc e.seq k with timeouts := satAdd 16 k.timeouts 1 })) l 0x401 0

def execReplayTimeout (l vc : Nat) (s : State) := onBlock (replayTimeout l vc) s

/-! ## Flits (R273) -/

/-- The header of a flit, every field cut to its width. -/
def flitHeader (type vc seq nak avc aseq cvc credits : Nat) (pause : Bool) (first : Nat) : Nat :=
  type % 16 * 2 ^ 60 + vc % 4 * 2 ^ 58 + seq % 65536 * 2 ^ 42 + nak % 2 * 2 ^ 41 + avc % 4 * 2 ^ 39 +
    aseq % 65536 * 2 ^ 23 + cvc % 4 * 2 ^ 21 + credits % 256 * 2 ^ 13 + b2n pause * 2 ^ 12 + first % 64 * 2 ^ 6

/-- The bytes of a flit's payload. -/
def flitPayload (f : BitVec 4096) : List Byte := leBytes 504 (f.toNat >>> 64)

/-- A flit of a header and a payload. -/
def flitOf (h : Nat) (p : List Byte) : BitVec 4096 := BitVec.ofNat 4096 (h + leNat p <<< 64)

/-- The next SEQ expected on a VC. -/
def expectOf (k : Link) (vc : Nat) : Nat := if vc = 1 then k.rx1.expect else if vc = 2 then k.rx2.expect else k.rx3.expect

/-- The acknowledgment fields of the next header, and the rotation moved on (R278). -/
def ackFields (k : Link) : Nat × Nat × Nat × Nat × Nat × Link :=
  let v := k.turn % 3 + 1
  let nak := k.naks.contains v
  (b2n nak, v, expectOf k v, v, if v = 3 then k.freed3 % 256 else 0,
    { k with turn := (k.turn + 1) % 3, naks := k.naks.filter (· != v) })

/-! ## Cutting packets into payloads (R274) -/

/-- The send queue of a VC and the bytes of its first packet already sent. -/
def sendQueue (k : Link) (vc : Nat) : List LinkPkt × Nat :=
  if vc = 1 then (k.tx1, k.cut1) else if vc = 2 then (k.tx2, k.cut2) else (k.tx3, k.cut3)

def setSendQueue (k : Link) (vc : Nat) (q : List LinkPkt) (cut : Nat) : Link :=
  if vc = 1 then { k with tx1 := q, cut1 := cut }
  else if vc = 2 then { k with tx2 := q, cut2 := cut }
  else { k with tx3 := q, cut3 := cut }

/-- Packets that n more bytes finish: those left with the bytes sent of the first, and the owners told. -/
def finishPkts : List LinkPkt → Nat → Nat → List LinkPkt × Nat × List LinkOwner
  | [], _, _ => ([], 0, [])
  | p :: r, cut, n =>
    if p.bytes.length ≤ cut + n then
      let t := finishPkts r 0 (n - (p.bytes.length - cut))
      (t.1, t.2.1, p.owner :: t.2.2)
    else (p :: r, cut + n, [])

/-- The next payload of a VC: its bytes, FIRST, the queue left and the owners of finished packets. -/
def nextPayload (q : List LinkPkt) (cut : Nat) : List Byte × Nat × (List LinkPkt × Nat × List LinkOwner) :=
  let bytes := ((q.flatMap (·.bytes)).drop cut).take 504
  let o := if cut = 0 then 0 else ((q.head?.map (fun p => p.bytes.length)).getD 0) - cut
  let begins := decide (o + 16 ≤ 504) || (decide (o < 504) && decide (2 ≤ q.length))
  (bytes ++ List.replicate (504 - bytes.length) 0, if begins then o / 8 else 63, finishPkts q cut bytes.length)

/-- Packet bytes accepted by the replay buffer (R190, R204). -/
def tellOwner (b : Block) (o : LinkOwner) : Block :=
  match o with
  | .none => b
  | .stream sid n => streamMet b sid n
  | .codec u n => codecMet b u n

/-! ## Encryption of what is sent (R303, R305) -/

/-- The 12-byte IV of a group under a key slot. -/
def groupIv (salt : Word) (group : Nat) : List Nat := toNats (leBytes 4 salt.toNat ++ leBytes 8 group)

/-- The round keys and salt of a slot. -/
def slotKeys (b : Block) (slot : Nat) : List (List Nat) × Word :=
  match Table.find b.sec.slots slot with
  | some (key, salt) => (aesKeys (toNats (leBytes 32 key.toNat)), salt)
  | none => ([], 0)

/-- A flit driven onto the line: in an encrypted direction its payload is enciphered in its place of the group. -/
def driveFlit (b : Block) (l : Nat) (h : Nat) (p : List Byte) : Block :=
  let k := getLink b l
  if k.encTx then
    let ks := slotKeys b k.txSlot
    let c := gcmCrypt ks.1 (groupIv ks.2 k.txGroup) (504 * k.txFlits.length) (toNats p)
    let f := flitOf h (ofNats c)
    putLink b l { lineOut k f with txFlit := f, txFlits := k.txFlits ++ [f] }
  else
    let f := flitOf h p
    putLink b l { lineOut k f with txFlit := f }

/-- Headers and payloads of flits, and the group number, as additional data and text (R303). -/
def groupAad (flits : List (BitVec 4096)) (group : Nat) : List Nat :=
  flits.flatMap (fun f => toNats (leBytes 8 f.toNat)) ++ toNats (leBytes 8 group)

def groupText (flits : List (BitVec 4096)) : List Nat := flits.flatMap (fun f => toNats (flitPayload f))

/-- The SEAL flit of the transmit group; the next group begins, under a new slot where a KEY_SWITCH said so. -/
def driveSeal (b : Block) (l : Nat) (h : Nat) : Block :=
  let k := getLink b l
  let ks := slotKeys b k.txSlot
  let tag := gcmTag ks.1 (groupIv ks.2 k.txGroup) (groupAad (k.txFlits ++ [BitVec.ofNat 4096 h]) k.txGroup)
    (groupText k.txFlits)
  let p := ofNats tag ++ leBytes 8 k.txGroup
  let f := flitOf h (p ++ List.replicate (504 - p.length) 0)
  let g := (k.txGroup + 1) % 2 ^ 64
  let now := (k.txSwitch.filter (fun s => s.2 == g)).getLast?
  putLink b l { lineOut k f with
    txFlit := f
    txFlits := []
    txGroup := g
    txSlot := (now.map (·.1)).getD k.txSlot
    txSwitch := k.txSwitch.filter (fun s => s.2 != g) }

/-- A KEY_SWITCH packet that is about to be cut into a flit names the group 64 ahead of that flit's, and the sender changes
there too (R305); the packets that a flit takes up are the first 31. -/
def stampSwitch (k : Link) : Link :=
  let g := (k.txGroup + 64) % 2 ^ 64
  let fresh (p : LinkPkt × Nat) : Bool := p.1.bytes.getD 15 0 == 0x41 && decide (p.2 < 31) && !(p.2 == 0 && k.cut3 != 0)
  let slots := (k.tx3.zipIdx.filter fresh).map (fun p => leNat (p.1.bytes.drop 12) % 2 ^ 24 / 2 ^ 4 % 16)
  { k with
    tx3 := k.tx3.zipIdx.map (fun p =>
      if fresh p then
        ⟨p.1.owner, pktHeader 0x41 0 (leNat (p.1.bytes.drop 12) % 2 ^ 24 / 2 ^ 4 % 16 * 2 ^ 68 + g * 2 ^ 4) 0⟩
      else p.1)
    txSwitch := (slots.map (fun s => (s, g))).foldl (fun t s =>
      (t.eraseP (fun x => x.1 == s.1 && x.2 == 2 ^ 64)) ++ [s]) k.txSwitch }

/-! ## LINK_FLIT_SEND (R279, R280) -/

/-- The link sends flits. -/
def sendsFlits (k : Link) : Bool := k.state == 2 || k.state == 3 || ((k.state == 1 || k.state == 4) && k.step == 5)

/-- What a VC can send now: an entry to send again, or a new flit; after a retrain the entries of every VC go first
(R301). -/
def vcReady (k : Link) (vc : Nat) : Bool :=
  if k.replay.any (fun e => e.vc == vc && e.due) then k.state == 2 || k.state == 3
  else
    !(k.replayAll && k.replay.any (·.due)) && (k.state == 2 || (k.state == 3 && vc == 3 && k.tx3.any (fun p => p.bytes.getD 15 0 == 0x40))) &&
      !(sendQueue k vc).1.isEmpty && decide (0 < creditOf k vc) && decide (k.replay.length < 4096)

/-- One credit of a VC spent. -/
def spendCredit (k : Link) (vc : Nat) : Link :=
  if vc = 1 then { k with credit1 := k.credit1 - 1 }
  else if vc = 2 then { k with credit2 := k.credit2 - 1 }
  else { k with credit3 := k.credit3 - 1 }

/-- The next SEQ of a VC, and the link with it counted. -/
def takeSeq (k : Link) (vc : Nat) : Nat × Link :=
  if vc = 1 then (k.seq1, { k with seq1 := (k.seq1 + 1) % 65536 })
  else if vc = 2 then (k.seq2, { k with seq2 := (k.seq2 + 1) % 65536 })
  else (k.seq3, { k with seq3 := (k.seq3 + 1) % 65536 })

/-- The first entry of a VC that is to be sent again, marked as sent. -/
def sendDue (vc : Nat) : List ReplayEntry → Option (ReplayEntry × List ReplayEntry)
  | [] => none
  | e :: r =>
    if e.vc == vc && e.due then some (e, { e with due := false, sends := e.sends + 1 } :: r)
    else (sendDue vc r).map (fun x => (x.1, e :: x.2))

/-- A DATA flit of a VC is sent: an entry again, or a new one that enters the replay buffer. -/
def sendData (b : Block) (l vc : Nat) : Block :=
  let (nak, avc, aseq, cvc, cr, k) := ackFields (getLink b l)
  match sendDue vc k.replay with
  | some (e, rest) =>
    driveFlit (putLink b l { k with replay := rest, replayAll := k.replayAll && rest.any (·.due) }) l
      (flitHeader 1 vc e.seq nak avc aseq cvc cr k.pause e.first) e.payload
  | none =>
    let k := if vc = 3 then stampSwitch k else k
    let q := sendQueue k vc
    let (p, first, left, cut, owners) := nextPayload q.1 q.2
    let (seq, k) := takeSeq (spendCredit (setSendQueue k vc left cut) vc) vc
    let k := { k with replay := k.replay ++ [⟨vc, seq, first, p, 1, false, false⟩] }
    let b := driveFlit (putLink b l k) l (flitHeader 1 vc seq nak avc aseq cvc cr k.pause first) p
    owners.foldl tellOwner b

/-- The VCs from the one that has the turn on. -/
def vcOrder (k : Link) : List Nat :=
  match k.vcTurn with
  | 1 => [1, 3, 2]
  | 2 => [2, 1, 3]
  | _ => [3, 2, 1]

/-- The TTE of what a VC would send next (R211). -/
def vcTte (b : Block) (k : Link) (vc : Nat) : Nat :=
  match (sendQueue k vc).1 with
  | [] => 0
  | p :: _ =>
    match p.owner with
    | .none => 0
    | .stream sid _ => (getStream b sid).tte
    | .codec u _ => ((getCodec b u).run.map (fun r => 2 ^ r.job.dline - 1)).getD 0

/-- The VC that sends: while one replays, the VCs ready take turns, so that its replay delays no other (R279); else the
one with the smallest TTE, or one that 1,023 grants have passed over (R211, R212; log 153). -/
def pickVc (b : Block) (l : Nat) (k : Link) : Option Nat :=
  let ready := (vcOrder k).filter (vcReady k)
  let t := Table.get [] b.arbiters (0x20000 + l)
  if k.replay.any (·.due) then ready.head?
  else match ready.find? (fun v => decide (1023 ≤ Table.get 0 t v)) with
    | some v => some v
    | none => ready.foldl (fun best v =>
        match best with
        | none => some v
        | some w => if vcTte b k v < vcTte b k w then some v else some w) none

/-- The turn passes on, and the VCs passed over count the grant. -/
def countVc (b : Block) (l : Nat) (k : Link) (won : Nat) : Block :=
  let t := [1, 2, 3].foldl (fun t v =>
    if v = won then Table.put 0 t v 0
    else if vcReady k v then Table.put 0 t v (min 1023 (Table.get 0 t v + 1)) else t)
    (Table.get [] b.arbiters (0x20000 + l))
  updLink { b with arbiters := Table.put [] b.arbiters (0x20000 + l) t } l (fun k =>
    { k with vcTurn := if won = 1 then 3 else won - 1 })

/-- R279: the link sends one flit: a SEAL, a DATA flit, or an IDLE flit. -/
def linkFlitSend (l : Nat) (b : Block) : Block :=
  let k := getLink b l
  if !linkPresent b l || !sendsFlits k then b
  else if k.encTx && decide (63 ≤ k.txFlits.length) then
    let (nak, avc, aseq, cvc, cr, k') := ackFields k
    driveSeal (putLink b l k') l (flitHeader 2 0 0 nak avc aseq cvc cr k.pause 0)
  else match pickVc b l k with
    | some vc => sendData (countVc b l k vc) l vc
    | none =>
      let (nak, avc, aseq, cvc, cr, k') := ackFields k
      driveFlit (putLink b l k') l (flitHeader 0 0 0 nak avc aseq cvc cr k.pause 0) (List.replicate 504 0)

def execLinkFlitSend (l : Nat) (s : State) := onBlock (linkFlitSend l) s

/-! ## Receiving (R274 to R280) -/

/-- PTYPE and LEN of a packet header. -/
def pktType (h : Nat) : Nat := fld h 127 120
def pktLen (h : Nat) : Nat := fld h 119 104

/-- The part of a payload that a receiver takes: nothing before FIRST after a loss, and eight zero bytes that ended
the flit before are dropped when a packet begins this one (R274). -/
def takePayload (r : RxStream) (first : Nat) (p : List Byte) : RxStream × List Byte :=
  if r.lost then
    (if first = 63 then (r, []) else ({ r with lost := false, part := [], left := 0 }, p.drop (8 * first)))
  else if r.left = 0 && first = 0 && r.part.length = 8 then ({ r with part := [] }, p)
  else ({ r with part := [] }, r.part ++ p)

/-- The words of a VC0 payload; the flag tells of a PROTOCOL discard. Fuel bounds the words. -/
def parse0 : Nat → RxStream → List Byte → RxStream × List CqItem × Bool
  | 0, r, _ => (r, [], false)
  | f + 1, r, l =>
    if l.length < 16 then ({ r with part := l }, [], false)
    else
      let w := granuleOf (l.take 16)
      if 0 < r.left then
        let t := parse0 f { r with left := r.left - 1 } (l.drop 16)
        (t.1, .body w (r.left == 1) :: t.2.1, t.2.2)
      else if pktType w.toNat = 0 then (r, [], false)
      else if pktType w.toNat = 0x10 ∨ (pktType w.toNat = 0x11 ∧ pktLen w.toNat = 0) then
        let t := parse0 f { r with left := pktLen w.toNat } (l.drop 16)
        (t.1, .head w (pktLen w.toNat == 0) :: t.2.1, t.2.2)
      else ({ r with lost := true }, [], true)

/-- The packet is one that a VC brings in. -/
def pktAllowed (vc h : Nat) : Bool :=
  let t := pktType h
  if vc = 2 then (t == 0x22 && decide (pktLen h ≤ 32)) || (t == 0x23 && pktLen h == 0)
  else (t == 0x40 || t == 0x41) && pktLen h == 0

/-- The packets of a VC2 or VC3 payload that a receive group brings. Fuel bounds the packets. -/
def parsePkts (vc group : Nat) : Nat → RxStream → List Byte → RxStream × List RxPkt × Bool
  | 0, r, _ => (r, [], false)
  | f + 1, r, l =>
    if l.length < 16 then ({ r with part := l }, [], false)
    else
      let h := leNat (l.take 16)
      let n := 16 + 16 * pktLen h
      if pktType h = 0 then (r, [], false)
      else if !pktAllowed vc h then ({ r with lost := true }, [], true)
      else if l.length < n then ({ r with part := l }, [], false)
      else
        let t := parsePkts vc group f r (l.drop n)
        (t.1, ⟨h, (l.drop 16).take (n - 16), group⟩ :: t.2.1, t.2.2)

/-- A DATA flit on VC0 (R277, R289). -/
def rxWeight (b : Block) (l seq first : Nat) (p : List Byte) : Block :=
  let k := getLink b l
  let k := if seq = k.rx0.expect then k else cutItem k
  let r := takePayload { k.rx0 with expect := (seq + 1) % 65536 } first p
  let t := parse0 40 r.1 r.2
  let b := putLink b l { k with rx0 := t.1, v0 := k.v0 ++ t.2.1 }
  if t.2.2 then protocol b l else b

/-- A NAK to send on a VC. -/
def wantNak (k : Link) (vc : Nat) : Link := { k with naks := setInsert k.naks vc }

/-- Flits at the front of the control buffer whose packets are all taken leave it and return their credits (R280). -/
def freeControl (k : Link) : Link :=
  let n := (k.buf3.takeWhile (· == 0)).length
  { k with buf3 := k.buf3.drop n, freed3 := (k.freed3 + n) % 256, grant3 := k.grant3 + n }

/-- A DATA flit on VC2 or VC3 (R277, R280). -/
def rxReliable (b : Block) (l vc seq first : Nat) (p : List Byte) : Block :=
  let k := getLink b l
  let r := if vc = 2 then k.rx2 else k.rx3
  if seq ≠ r.expect then (if seqBefore seq r.expect then b else putLink b l (wantNak k vc))
  else if vc = 3 && k.grant3 == 0 then protocol b l
  else
    let x := takePayload { r with expect := (seq + 1) % 65536 } first p
    let t := parsePkts vc k.rxGroup 40 x.1 x.2
    let k := if vc = 2 then { k with rx2 := t.1, in2 := k.in2 ++ t.2.1 }
      else freeControl { k with rx3 := t.1, in3 := k.in3 ++ t.2.1, grant3 := k.grant3 - 1, buf3 := k.buf3 ++ [t.2.1.length] }
    let b := putLink b l k
    if t.2.2 then protocol b l else b

/-- The increase of the partner's CREDITS on a VC. -/
def addCredits (k : Link) (vc c : Nat) : Link :=
  if vc = 1 then { k with credit1 := k.credit1 + (c + 256 - k.seen1) % 256, seen1 := c }
  else if vc = 2 then { k with credit2 := k.credit2 + (c + 256 - k.seen2) % 256, seen2 := c }
  else if vc = 3 then { k with credit3 := k.credit3 + (c + 256 - k.seen3) % 256, seen3 := c }
  else k

/-- The acknowledgment and the credits of a received header (R278, R279, R280). -/
def rxHeader (b : Block) (l h : Nat) : Block :=
  let b := updLink b l (fun k => addCredits k (fld h 22 21) (fld h 20 13))
  let avc := fld h 40 39
  if avc = 0 then b
  else if bit h 41 then replayFrom b l avc (fld h 38 23)
  else updLink b l (fun k => { k with replay := ackReplay avc (fld h 38 23) k.replay })

/-- An intact flit acts (R273, R277). -/
def rxFlit (b : Block) (l : Nat) (f : BitVec 4096) : Block :=
  let h := f.toNat % 2 ^ 64
  let type := fld h 63 60
  if type = 0 then rxHeader b l h
  else if type = 1 then
    let b := rxHeader b l h
    let vc := fld h 59 58
    if vc = 0 then rxWeight b l (fld h 57 42) (fld h 11 6) (flitPayload f)
    else if vc = 1 then protocol b l
    else rxReliable b l vc (fld h 57 42) (fld h 11 6) (flitPayload f)
  else protocol b l

/-- Corrected symbols counted on their lanes (R300, R307). -/
def countSymbols (k : Link) (corr : List (Nat × Nat)) : Link :=
  let k := { k with corrHist := (corr :: k.corrHist).take 80 }
  corr.foldl (fun k p =>
    let x := getLane k p.1
    setLane k p.1 { x with corr := x.corr + BitVec.ofNat 32 p.2, window := x.window + p.2 }) k

/-- R271, R277: a flit that came through the line code with the corrections given. -/
def linkFlitReceive (l : Nat) (flit : BitVec 4096) (corr : List (Nat × Nat)) (b : Block) : Block :=
  let k := getLink b l
  if !linkPresent b l || !sendsFlits k then b
  else
    let k := { countSymbols k corr with
      uncorrRun := 0, rxCount := k.rxCount + 1, clean := if k.step = 5 then k.clean + 1 else k.clean }
    if k.encRx then
      putLink b l { k with rxFlits := if k.rxFlits.length < 64 then k.rxFlits ++ [flit] else k.rxFlits }
    else rxFlit (putLink b l k) l flit

def execLinkFlitReceive (l : Nat) (flit : BitVec 4096) (corr : List (Nat × Nat)) (s : State) :=
  onBlock (linkFlitReceive l flit corr) s

/-- NAKs for VC1 to VC3 after a loss. -/
def nakAll (k : Link) : Link := { k with naks := [1, 2, 3] }

/-- R271, R277, R289, R297, R299: an uncorrectable codeword that overlaps some flits. `lost` holds their number, at most
three, and 4 more when a codeword that the receiver could correct came since the uncorrectable one before it (log 157). A
VC0 packet in progress is cut short. -/
def uncorrectableCodeword (l lost : Nat) (b : Block) : Block :=
  let k := getLink b l
  if !linkPresent b l || !sendsFlits k then b
  else
    let n := lost % 4
    let k := nakAll { k with uncorrRun := if 4 ≤ lost then 1 else k.uncorrRun + 1, rxCount := k.rxCount + n, clean := 0 }
    let k :=
      if k.encRx then
        { k with rxFlits := (k.rxFlits ++ List.replicate n 0).take 64, rxBad := k.rxBad || decide (0 < n) }
      else if 0 < n then cutItem k else k
    let k := if k.step = 5 ∧ (k.state = 1 ∨ k.state = 4) then backToTwo b k else k
    let b := putLink b l k
    if 4 ≤ k.uncorrRun then retrainUp b l (worstLane k) else b

def execUncorrectableCodeword (l lost : Nat) (s : State) := onBlock (uncorrectableCodeword l lost) s

/-! ## Encryption of what is received (R304, R305) -/

/-- R304: the group that its SEAL ends is verified and delivered, or discarded whole. -/
def sealReceive (l : Nat) (b : Block) : Block :=
  let k := getLink b l
  if !linkPresent b l || !k.encRx || k.rxFlits.length < 64 then b
  else
    let ks := slotKeys b k.rxSlot
    let body := k.rxFlits.take 63
    let sealFlit := k.rxFlits.getD 63 0
    let iv := groupIv ks.2 k.rxGroup
    let tag := gcmTag ks.1 iv (groupAad (body ++ [sealFlit]) k.rxGroup) (groupText body)
    let p := toNats (flitPayload sealFlit)
    let good := !k.rxBad && fld sealFlit.toNat 63 60 == 2 && p.take 16 == tag &&
      (p.drop 16).take 8 == toNats (leBytes 8 k.rxGroup)
    let g := (k.rxGroup + 1) % 2 ^ 64
    let after (k : Link) : Link :=
      let now := (k.rxSwitch.filter (fun s => s.2 == g)).getLast?
      { k with
        rxGroup := g
        rxSlot := (now.map (·.1)).getD k.rxSlot
        rxSwitch := k.rxSwitch.filter (fun s => s.2 != g) }
    let b := putLink b l { k with
      rxFlits := []
      rxBad := false
      authFail := if good then k.authFail else satAdd 8 k.authFail 1 }
    if good then
      let text := gcmCrypt ks.1 iv 0 (groupText body)
      let flits := List.zipWith (fun f t => flitOf (f.toNat % 2 ^ 64) (ofNats t)) body (chunks 63 504 text)
      updLink (rxHeader (flits.foldl (fun b f => rxFlit b l f) b) l (sealFlit.toNat % 2 ^ 64)) l after
    else linkEvent (updLink b l (fun k => after (nakAll (cutItem k)))) l 0x408 0

def execSealReceive (l : Nat) (s : State) := onBlock (sealReceive l) s

/-- A packet of VC3 is taken; its flit leaves the control buffer with its last packet (R280). -/
def popControl (k : Link) : Link :=
  freeControl { k with in3 := k.in3.drop 1, buf3 := match k.buf3 with
    | n :: r => (n - 1) :: r
    | [] => [] }

/-- R305, R410: a KEY_SWITCH packet of the partner. -/
def keySwitch (l : Nat) (b : Block) : Block :=
  let k := getLink b l
  match k.in3 with
  | [] => b
  | p :: _ =>
    if pktType p.header ≠ 0x41 then b
    else
      let slot := fld p.header 103 100
      let g := fld p.header 99 36
      let b := putLink b l (popControl k)
      if k.encRx && decide (p.group + 64 ≤ g) && (Table.find b.sec.slots slot).isSome then
        updLink b l (fun k => { k with rxSwitch := k.rxSwitch ++ [(slot, g)] })
      else protocol b l

def execKeySwitch (l : Nat) (s : State) := onBlock (keySwitch l) s

/-! ## Packets of VC2 (R281 to R283) -/

/-- Marked bytes of a body with its PMASK. -/
def markBody (pmask : Nat) (body : List Byte) : Marked :=
  body.zipIdx.map (fun p => (p.1, bit pmask (p.2 / 16)))

/-- The answer to a read of the boot ROM: image bytes at an offset (R372). -/
def bootRead (b : Block) (pos n : Nat) (body : List Byte) : Block :=
  let s := b.start
  if s.phase = .stage 2 ∧ s.bootReq = some (pos, n) then
    { b with start := { s with image := s.image.take pos ++ body, bootReq := none } }
  else b

/-- The read under a tag belongs to a stream. -/
def streamRead (k : Link) (tag : Nat) : Bool :=
  (Table.find k.tags tag).any (fun t => t.req.any (fun q => q.1.isSome))

/-- R281: the READ_RSP at the head of VC2. A stream takes no answer while its clock stands (R396). -/
def readRsp (l : Nat) (b : Block) : Block :=
  let k := getLink b l
  match k.in2 with
  | [] => b
  | p :: rest =>
    let tag := fld p.header 99 88
    if pktType p.header ≠ 0x22 ∨ (b.power.hold && streamRead k tag) = true then b
    else
      let k := { k with in2 := rest }
      match (Table.find k.tags tag).map (fun t => (t.gen, t.req)) with
      | some (gen, some (owner, pos, n, addr)) =>
        let ok := fld p.header 87 84 == 0 && pktLen p.header == n
        let refused := fld p.header 87 84 == 1 && pktLen p.header == 0
        if gen != fld p.header 103 100 || !(ok || refused) then protocol (putLink b l k) l
        else
          let b := putLink b l { k with tags := Table.add k.tags tag ⟨gen, none⟩ }
          match owner with
          | none => if refused then b else bootRead b pos n p.body
          | some sid =>
            if refused then noteBad b sid 0x117 pos addr
            else updStream b sid (fun s =>
              if s.active.isSome then { s with arrived := s.arrived ++ [⟨pos, markBody (p.header % 2 ^ 32) p.body⟩] }
              else s)
      | _ => protocol (putLink b l k) l

def execReadRsp (l : Nat) (s : State) := onBlock (readRsp l) s

/-- R282: a tag is outstanding past its lifetime. -/
def tagTimeout (l tag : Nat) (b : Block) : Block :=
  let k := getLink b l
  match Table.find k.tags tag with
  | some ⟨gen, some (owner, pos, _, addr)⟩ =>
    if k.tagTimeout = 0 then b
    else
      let b := linkEvent (putLink b l { k with tags := Table.add k.tags tag ⟨gen, none⟩ }) l 0x40A 0
      match owner with
      | some sid => noteBad b sid 0x117 pos addr
      | none => b
  | _ => b

def execTagTimeout (l tag : Nat) (s : State) := onBlock (tagTimeout l tag) s

/-- R283: the WRITE_REFUSE at the head of VC2. -/
def writeRefuse (l : Nat) (b : Block) : Block :=
  let k := getLink b l
  match k.in2 with
  | [] => b
  | p :: rest =>
    if pktType p.header ≠ 0x23 then b
    else
      let b := putLink b l { k with in2 := rest }
      match k.writes.find? (fun w => w.wid == fld p.header 103 88) with
      | none => protocol b l
      | some w =>
        if w.live then noteBad b w.sid 0x117 w.pos w.addr
        else report b (0x1000 + w.sid) 0x117 (BitVec.ofNat 128 (w.addr * 2 ^ 64))

def execWriteRefuse (l : Nat) (s : State) := onBlock (clockedStep (writeRefuse l)) s

/-! ## Training (R297, R298) -/

/-- A link begins step 1; training from DOWN starts SEQ, credits and groups afresh. -/
def beginTraining (b : Block) (l : Nat) : Block :=
  updLink b l (fun k => { k with
    state := 1
    step := 1
    stepAt := b.start.portCycle
    phyRst := false
    retiring := none
    clean := 0
    uncorrRun := 0
    corrHist := []
    lanes := k.lanes.map (fun x => { x with words := 0, map := 0, state := if x.state = 2 then 2 else 3, logical := 0, qualified := 0 })
    seq1 := 0
    seq2 := 0
    seq3 := 0
    credit1 := 0
    credit2 := 0
    credit3 := 0
    seen1 := 0
    seen2 := 0
    seen3 := 0
    freed3 := 0
    grant3 := 16
    buf3 := []
    turn := 0
    vcTurn := 0
    naks := []
    replay := []
    replayAll := false
    cut1 := 0
    cut2 := 0
    cut3 := 0
    rx0 := RxStream.fresh
    rx1 := RxStream.fresh
    rx2 := RxStream.fresh
    rx3 := RxStream.fresh
    in2 := []
    in3 := []
    encTx := false
    encRx := false
    txGroup := 0
    rxGroup := 0
    txFlits := []
    rxFlits := []
    rxBad := false
    txSwitch := []
    rxSwitch := []
    txBits := []
    txRest := 0
    txRestLen := 0
    txDealt := 0
    txPart := []
    txd := []
    rxCount := 0 })

/-- The lanes that the block proposes: the usable ones it has locked; on a retrain its active lanes and its spare, if that
is usable, without the one that is being retired (R297, R299, R301). -/
def ourMap (b : Block) (k : Link) : List Nat :=
  if k.state = 4 then
    (List.range 17).filter (fun i => some i != k.retiring &&
      ((getLane k i).state == 0 || ((getLane k i).state == 1 && laneUsable b k i)))
  else (usableLanes b k).filter (fun i => decide (0 < (getLane k i).words))

/-- Lanes given their states: the lowest 16 active, the next one spare. -/
def assignLanes (k : Link) (l : List Nat) : Link :=
  { k with lanes := Vector.ofFn (fun i : Fin 17 =>
      let x := { k.lanes[i] with words := 0 }
      match l.findIdx? (· == i.val) with
      | some j => if j < 16 then { x with state := 0, logical := j } else { x with state := 1, logical := 0 }
      | none => { x with state := if x.state = 2 then 2 else 3, logical := 0 }) }

/-- Encryption agrees and its slots are loaded (R298, R410). -/
def cryptAgrees (b : Block) (k : Link) (w : Nat) : Bool :=
  bit w 128 == k.txEn && bit w 129 == k.rxEn &&
    (!k.txEn || (Table.find b.sec.slots k.txSlot).isSome) && (!k.rxEn || (Table.find b.sec.slots k.rxSlot).isSome)

/-- A training word of the block (R298): its lane, its MAP, no credits but 16 on VC3 (R280), and its encryption. -/
def ownWord (b : Block) (k : Link) (type lane : Nat) : BitVec 256 :=
  let map := ((ourMap b k).map (2 ^ ·)).sum
  let v := 0x5C3A96F00F69A3C5 * 2 ^ 192 + type * 2 ^ 184 + lane * 2 ^ 179 + map * 2 ^ 162 + 16 * 2 ^ 130 +
    b2n k.txEn * 2 ^ 129 + b2n k.rxEn * 2 ^ 128
  BitVec.ofNat 256 (v + crc32c (leBytes 28 (v / 2 ^ 32)))

/-- Training words driven on the usable lanes: n of a type, then others (R297). -/
def driveWords (b : Block) (k : Link) (types : List Nat) : Link :=
  { k with txd := (usableLanes b k).map (fun i => (i, types.map (fun t => ownWord b k t i))) }

/-- The link is UP, or in HOLD while the block is in Hold (R396); entries that no acknowledgment covers are sent again. -/
def comeUp (b : Block) (l : Nat) : Block :=
  let k := getLink b l
  let was := k.state
  let b := putLink b l { k with
    state := if b.power.hold then 3 else 2
    step := 0
    retiring := none
    replay := k.replay.map (fun e => if e.acked then e else { e with due := true })
    replayAll := true
    replays := if was = 4 ∧ !k.replay.isEmpty then satAdd 16 k.replays 1 else k.replays }
  let b := updLink b l (fun k => { k with pause := nextPause k })
  nextRetire (match k.retiring with
    | some lane => laneEvent b l lane 0x403 1
    | none => if was = 1 then recordChange b else b) l

/-- LANES of the capability record, as the link's state gives it (R57). -/
def lanesState (k : Link) : List Bool := k.lanes.toList.map (fun x => x.state == 0)

/-- Step 3 ends: the lanes of both MAPs take their states; the record changes with them on a link that is up (R58, R297,
R301). -/
def takeLanes (b : Block) (l : Nat) (k : Link) (both : List Nat) : Block :=
  let k' := assignLanes (match k.retiring with
    | some i => setLane k i { getLane k i with state := 2, qualified := 0 }
    | none => k) both
  let b := putLink b l { enterStep b k' 4 with encTx := k.txEn, encRx := k.rxEn }
  if k.state = 4 && lanesState k' != lanesState k then bumpRecord b else b

/-- Step 4 ends: 16 more TS2 words and END, then superframe 0; from DOWN, group 0 begins with its first flit (R272, R297,
R303). -/
def beginFrames (b : Block) (k : Link) : Link :=
  let k := driveWords b k (List.replicate 16 2 ++ [3])
  let k : Link := { enterStep b k 5 with
    clean := 0, rxCount := 0, txBits := [], txRest := 0, txRestLen := 0, txDealt := 0, txWords := 0, txPart := [] }
  if k.state = 1 then { k with txGroup := 0, rxGroup := 0, txFlits := [], rxFlits := [], rxBad := false } else k

/-- One advance of steps 2 to 5 (R297): the words of the step are sent, and it ends when its condition is met. In a
retrain every lane proposed must be locked. -/
def trainStep (b : Block) (l : Nat) (k : Link) : Block :=
  if k.step = 2 then
    let k := driveWords b k [1]
    let own := ourMap b k
    let locked := own.filter (fun i => decide (0 < (getLane k i).words))
    if minLanesOf k ≤ locked.length ∧ (k.state = 4 → locked.length = own.length) then
      putLink b l { enterStep b k 3 with partnerMap := 0 }
    else putLink b l k
  else if k.step = 3 then
    let k := driveWords b k [2]
    if k.partnerMap = 0 then putLink b l k
    else
      let both := (ourMap b k).filter (fun i => bit k.partnerMap i)
      if both.length < minLanesOf k then putLink b l (backToTwo b k) else takeLanes b l k both
  else if k.step = 4 then
    let k := driveWords b k [2]
    putLink b l (if (lanesIn k 0).all (fun i => decide (16 ≤ (getLane k i).words)) then beginFrames b k else k)
  else if k.step = 5 then (if 4 * 1285 ≤ k.clean then comeUp b l else b)
  else b

/-- The longest time of a training step, in ms (R297). -/
def stepMax (n : Nat) : Nat := [0, 100, 20, 10, 1, 1].getD n 0

/-- The running step has passed its maximum. -/
def stepLate (b : Block) (k : Link) : Bool :=
  decide (k.stepAt + stepMax k.step * (1000 * b.start.portRun) < b.start.portCycle)

/-- R297: training advances by one step when its condition is met; a step past its maximum has failed, and training begins
again at step 2. -/
def linkTraining (l : Nat) (b : Block) : Block :=
  let k := getLink b l
  if !linkPresent b l || k.state != 1 then b
  else if stepLate b k then putLink b l { backToTwo b k with phyRst := true }
  else if k.step = 1 then
    (if !k.phyRst then putLink b l { k with phyRst := true }
     else if minLanesOf k ≤ (usableLanes b k).length then putLink b l (enterStep b k 2) else b)
  else trainStep b l k

def execLinkTraining (l : Nat) (s : State) := onBlock (linkTraining l) s

/-- A training word is valid: MARK, CRC, its lane and its reserved bits. -/
def wordOk (lane w : Nat) : Bool :=
  fld w 255 192 == 0x5C3A96F00F69A3C5 && fld w 183 179 == lane && isZero w 127 32 &&
    fld w 31 0 == crc32c (leBytes 28 (fld w 255 32)) &&
    (fld w 191 184 == 1 || fld w 191 184 == 2 || fld w 191 184 == 3)

/-- R298: a training word arrives on a lane. -/
def trainingWord (l lane : Nat) (word : BitVec 256) (b : Block) : Block :=
  let k := getLink b l
  let w := word.toNat
  if !laneEn b l lane || !(k.state == 1 || k.state == 4) || !wordOk lane w || !(getLane k lane).rdy then b
  else
    let x := getLane k lane
    let type := fld w 191 184
    if k.step = 2 then putLink b l (setLane k lane { x with words := x.words + 1 })
    else if k.step = 3 ∧ type = 2 then
      if !cryptAgrees b k w then putLink b l (backToTwo b k)
      else
        let k := setLane k lane { x with map := fld w 178 162 }
        let k := { k with partnerMap := fld w 178 162 }
        putLink b l (if k.state = 4 then k else
          { k with credit1 := fld w 161 150, credit2 := fld w 149 138, credit3 := fld w 137 130 })
    else if k.step = 4 ∧ type = 2 then putLink b l (setLane k lane { x with words := x.words + 1 })
    else b

def execTrainingWord (l lane : Nat) (w : BitVec 256) (s : State) := onBlock (trainingWord l lane w) s

/-- R297, R302: training ends DOWN after 200 ms. -/
def trainFail (l : Nat) (b : Block) : Block :=
  if linkPresent b l && (getLink b l).state == 1 then takeDown (linkEvent b l 0x405 0) l else b

def execTrainFail (l : Nat) (s : State) := onBlock (trainFail l) s

/-! ## What starts a retrain (R299) -/

def phyRdyFall (l lane : Nat) (b : Block) : Block :=
  let k := getLink b l
  if !linkPresent b l || 17 ≤ lane || !(getLane k lane).rdy then b
  else
    let b := putLink b l (setLane k lane { getLane k lane with rdy := false })
    if (getLane k lane).state = 0 then retrainUp b l lane else b

def execPhyRdyFall (l lane : Nat) (s : State) := onBlock (phyRdyFall l lane) s

/-- R297: a rise of a bit of LNK_PHY_RDY. -/
def phyRdyRise (l lane : Nat) (b : Block) : Block :=
  if linkPresent b l && decide (lane < 17) then
    updLink b l (fun k => setLane k lane { getLane k lane with rdy := true })
  else b

def execPhyRdyRise (l lane : Nat) (s : State) := onBlock (phyRdyRise l lane) s

def noIntactFlit (l : Nat) (b : Block) : Block := retrainUp b l (worstLane (getLink b l))

def execNoIntactFlit (l : Nat) (s : State) := onBlock (noIntactFlit l) s

def execLnkCmdRetrain (l : Nat) (s : State) := onBlock (noIntactFlit l) s

/-- R299: a retrain, counted against a lane, advances by one of its steps. -/
def laneRetrain (l lane : Nat) (b : Block) : Block :=
  let k := getLink b l
  if linkPresent b l && k.state == 4 && k.blame == lane then trainStep b l k else b

def execLaneRetrain (l lane : Nat) (s : State) := onBlock (laneRetrain l lane) s

/-- R299, R302: a retrain fails; its lane is retired, or the link goes DOWN. -/
def retrainFail (l : Nat) (b : Block) : Block :=
  let k := getLink b l
  if !linkPresent b l || k.state != 4 then b
  else
    let k := match k.retiring with
      | some i => setLane k i { getLane k i with state := 2, qualified := 0 }
      | none => k
    let lane := if k.retiring.isSome then worstLane k else k.blame
    if (lanesWithout b k lane).length < minLanesOf k then takeDown (putLink b l k) l
    else putLink b l { backToTwo b k with retiring := some lane, blame := lane }

def execRetrainFail (l : Nat) (s : State) := onBlock (retrainFail l) s

/-! ## Retirement (R300, R301) -/

/-- R300: a 100 ms window ends. -/
def serWindow (l : Nat) (b : Block) : Block :=
  if !linkPresent b l then b
  else
    let k := getLink b l
    let past (x : Lane) : Bool := x.state == 0 && decide (k.serLimit < x.window)
    let lanes := k.lanes.map (fun x => { x with high := if past x then satAdd 8 x.high 1 else 0, window := 0 })
    let k := { k with lanes := lanes }
    ((lanesIn k 0).filter (fun i => decide (max 1 k.serWindows ≤ (getLane k i).high))).foldl
      (fun b i => qualifyLane b l i 1) (putLink b l k)

def execSerWindow (l : Nat) (s : State) := onBlock (serWindow l) s

/-- R300: LNK.CMD.RETIRE names a lane of a link that is up; a link in HOLD or RETRAIN retires it once it is UP. -/
def cmdRetire (l lane : Nat) (b : Block) : Block :=
  if linkUp b l && decide (lane < 17) && decide ((getLane (getLink b l) lane).state < 2) then markRetire b l lane 1 else b

def execLnkCmdRetire (l lane : Nat) (s : State) := onBlock (cmdRetire l lane) s

/-- The LANE_RETIRE packet of the partner at the head of VC3 makes its lane qualify (R300). -/
def takeRetire (b : Block) (l lane : Nat) : Block := qualifyLane (updLink b l popControl) l lane 2

/-- R301: a lane is retired: the partner's LANE_RETIRE is taken up; or HOLD ends, its replay entries acknowledged or
8 µs gone, and the link retrains without the lane. -/
def laneRetire (l lane : Nat) (b : Block) : Block :=
  let k := getLink b l
  if !linkPresent b l then b
  else if k.in3.head?.any (fun p => pktType p.header == 0x40 && fld p.header 103 99 == lane) then takeRetire b l lane
  else if k.state = 3 ∧ k.retiring = some lane ∧ !k.tx3.contains (retirePkt lane) = true ∧
      minLanesOf k ≤ (lanesWithout b k lane).length then
    putLink b l { backToTwo b k with state := 4, blame := lane, pause := true }
  else b

def execLaneRetire (l lane : Nat) (s : State) := onBlock (laneRetire l lane) s

/-- R302: a link whose retirement would leave fewer active lanes than MIN_LANES goes DOWN. -/
def linkDown (l : Nat) (b : Block) : Block :=
  let k := getLink b l
  if linkPresent b l && k.retiring.any (fun i => decide ((lanesWithout b k i).length < minLanesOf k)) then takeDown b l
  else b

def execLinkDown (l : Nat) (s : State) := onBlock (linkDown l) s

/-! ## LNK.CMD (R307) -/

/-- LNK.CMD.TRAIN trains a DOWN link. -/
def cmdTrain (l : Nat) (b : Block) : Block :=
  if linkPresent b l && (getLink b l).state == 0 && b.start.phase != .reset then beginTraining b l else b

def execLnkCmdTrain (l : Nat) (s : State) := onBlock (cmdTrain l) s

def cmdClrLink (l : Nat) (b : Block) : Block :=
  updLink b l (fun k => { k with
    lanes := k.lanes.map (fun x => { x with corr := 0, high := 0 })
    cqCorr := 0
    cqDamaged := 0
    cqLost := 0
    replays := 0
    timeouts := 0
    authFail := 0 })

def execLnkCmdClrCounts (l : Nat) (s : State) :=
  onBlock (fun b => if linkPresent b l then cmdClrLink l b else b) s

end Sys2Proof.Machine
end

