-- ==== Sys2Proof/Machine/Ingress.lean ====
section
/-! DEFINITION. The catch queue of a link and the landing ranges that its ingress job fills (R287 to R296). -/

namespace Sys2Proof.Machine

/-! ## Writing the catch queue (R287, R289) -/

/-- The words a catch queue holds. -/
def cqDepth : Nat := 65536

/-- The word at a place marked DAMAGED. -/
def markWord (q : List CqWord) (i : Nat) : List CqWord := q.modify i (fun w => { w with damaged := true })

/-- One word makes room at a full queue: the oldest body word, or the header of a packet that has none left. -/
def cqOverwrite (k : Link) : Link :=
  match k.catchQ with
  | [] => k
  | h :: r =>
    let k := { k with cqLost := satAdd 32 k.cqLost 1 }
    if h.head then
      match r with
      | w :: r' =>
        if w.head then { k with catchQ := r }
        else { k with catchQ := { h with damaged := true, last := h.last || w.last } :: r' }
      | [] => { k with catchQ := [], dropping := k.cqOpen, cqOpen := false }
    else
      match r with
      | w :: _ =>
        if w.head then { k with catchQ := r, cqMark := true, cqEnd := k.cqEnd || h.last }
        else { k with catchQ := markWord r 0 }
      | [] => { k with catchQ := [], cqMark := true, cqEnd := k.cqEnd || h.last }

/-- A word written into the queue; the first overwrite of a Flow job records 0x406. -/
def cqPush (b : Block) (l : Nat) (w : CqWord) : Block :=
  let k := getLink b l
  let full := decide (cqDepth ≤ k.catchQ.length)
  let k := if full then cqOverwrite k else k
  let note := full && !k.once.contains 0x406
  let gone := full && k.dropping && !w.head
  let k := if gone then { k with dropping := !w.last } else { k with catchQ := k.catchQ ++ [w] }
  let b := putLink b l { k with once := if note then setInsert k.once 0x406 else k.once }
  if note then linkEvent b l 0x406 0 else b

/-- The packet in progress ends at its last received word, damaged. -/
def cqCutOff (k : Link) : Link :=
  if k.dropping then { k with dropping := false }
  else if !k.cqOpen then k
  else
    let n := k.catchQ.length
    let own := (k.catchQ.zipIdx.filter (fun p => p.1.head)).getLast?.map (·.2)
    let k := { k with cqOpen := false }
    match own with
    | some i => { k with catchQ := (markWord k.catchQ i).modify (n - 1) (fun w => { w with last := true }) }
    | none =>
      if n = 0 then { k with cqMark := true, cqEnd := true }
      else { k with catchQ := (markWord k.catchQ 0).modify (n - 1) (fun w => { w with last := true }) }

/-- R287, R289: the controller writes the next word of a VC0 packet. -/
def catchQueueWrite (l : Nat) (b : Block) : Block :=
  let k := getLink b l
  if !linkPresent b l then b
  else match k.v0 with
    | [] => b
    | .cut :: r => putLink b l (cqCutOff { k with v0 := r })
    | .head w last :: r => cqPush (putLink b l { k with v0 := r, cqOpen := !last }) l ⟨w, false, 0, true, last, false⟩
    | .body w last :: r =>
      if k.dropping then putLink b l { k with v0 := r, dropping := !last, cqOpen := !last }
      else cqPush (putLink b l { k with v0 := r, cqOpen := !last }) l ⟨w, false, 0, false, last, false⟩

def execCatchQueueWrite (l : Nat) (s : State) := onBlock (catchQueueWrite l) s

/-! ## Reading (R287, R288, R292, R294) -/

/-- What the consumer reads of a word: data and mark; a correction is counted. -/
def cqDecode (k : Link) (w : CqWord) : Granule × Bool × Link :=
  match decodeGranule (encodeGranule w.data w.poison ^^^ w.err) with
  | (d, .clean) => (d, false, k)
  | (d, .poisoned) => (d, true, k)
  | (d, .corrected) => (d, false, { k with cqCorr := satAdd 16 k.cqCorr 1 })
  | (d, .uncorrectable) => (d, true, k)

/-- The words of the packet at the front of the queue. -/
def frontPacket : List CqWord → List CqWord
  | [] => []
  | h :: r => h :: r.takeWhile (fun w => !w.head)

/-- The consumer may begin the packet at the front (R287). -/
def mayBegin (k : Link) : Bool :=
  let p := frontPacket k.catchQ
  p.any (·.last) || decide (max 1 k.cqCut ≤ p.length)

/-- n bytes of a range's bitmap from a byte on. -/
def bitmapBytes (b : Block) (x : LRange) (k n : Nat) : Nat × Block :=
  let d := leeBytesAt b (epAddr b x.bitmap + k) n
  ((markedNat d.1).1, d.2)

/-- The bit of a segment in its range's bitmap. -/
def segBit (b : Block) (x : LRange) (k : Nat) : Bool × Block :=
  let d := bitmapBytes b x (k / 8) 1
  (bit d.1 (k % 8), d.2)

/-- The first segment of R294 for a range in a Flow job records 0x40D. -/
def noteUnknown (b : Block) (l r : Nat) : Block :=
  let b := { b with unknown := satAdd 16 b.unknown 1 }
  if b.job.unknownOnce.contains r then b
  else linkEvent { b with job := { b.job with unknownOnce := setInsert b.job.unknownOnce r } } l 0x40D 0

/-- The header word of a SEG packet: the segment begins, or is one to be dropped. -/
def beginSeg (b : Block) (l h : Nat) (last damaged : Bool) : Block :=
  let r := fld h 103 96
  let k := fld h 83 68
  let x := getRange b r
  let seg : Seg := ⟨r, pktLen h, fld h 95 84, k, fld h 31 0, [], last, false, false, false, 0, 0⟩
  let put (b : Block) (s : Seg) : Block := updRun b l (fun run =>
    { run with seg := some s, inFrame := false, scaleFrame := false, hdr := none, pairs := [], inbuf := [],
               waiting := [], swaiting := [], hist := [], dataBlocks := 0 })
  if x.state = 0 ∨ x.store ≠ fld h 95 84 then put (noteUnknown b l r) { seg with ignored := true }
  else
    let landed := if x.state = 1 ∧ k < x.count then segBit b x k else (x.state == 2, b)
    let b := landed.2
    if landed.1 then put { b with dups := satAdd 16 b.dups 1 } { seg with ignored := true }
    else if x.count ≤ k then damageSeg (put b { seg with stopped := true }) l
    else
      let b := put b seg
      let lastSeg := x.expand && k + 1 == x.count
      let len := if x.expand then x.segBytes / 16 else min (x.segBytes / 16) (pktLen h)
      let b := if lastSeg then b else codOpen b l false x.dst (k * x.segBytes) len
      let b := if x.paired && !lastSeg then codOpen b l true x.sdst (k * x.ssegBytes) (x.ssegBytes / 16) else b
      if damaged then damageSeg b l else b

/-- A body word of the segment: kept for the expander, or copied to its place in a range without EXPAND (R18, R292). -/
def segWord (b : Block) (l : Nat) (s : Seg) (d : Granule) (poison last damaged : Bool) : Block :=
  let x := getRange b s.range
  let bytes := granuleBytes d
  let b := updRun b l (fun r =>
    { r with seg := some { s with body := s.body ++ bytes, whole := last }, inDone := r.inDone + 16
             inbuf := if x.expand then r.inbuf ++ markAll poison bytes else r.inbuf })
  let b := if damaged then damageSeg b l else b
  if x.expand then b
  else if x.segBytes < s.out + 16 then unfurlFail b l 0x202
  else
    let b := codPut b l false x.dst (s.segno * x.segBytes + s.out)
      (min (x.segBytes / 16) s.len - s.out / 16) (markAll poison bytes)
    let b := if poison then damageSeg b l else b
    countCodec (updRun b l (fun r => { r with seg := r.seg.map (fun s => { s with out := s.out + 16 }) })) l 0 16 16

/-- The consumer's segment ends where the queue lost its END. -/
def segCut (b : Block) (l : Nat) : Block :=
  let b := updLink b l (fun k => { k with cqIn := false, cqMark := false, cqEnd := false })
  damageSeg (updRun b l (fun r => { r with seg := r.seg.map (fun s => { s with whole := true }) })) l

/-- The read port presents a word with its flags (R287). -/
def presentWord (k : Link) (d : Granule × Bool) (w : CqWord) (damaged : Bool) : Link :=
  { k with cqOut := ⟨d.1, d.2, w.head, w.last, damaged, false⟩ }

/-- The Lull item, with LULL set; the read pointer stays (R287). -/
def presentLull (k : Link) : Link := { k with cqOut := ⟨0x01 <<< 120, false, false, false, false, true⟩ }

/-- R287, R292: the ingress job of a link reads a word; an empty queue gives the Lull item. -/
def catchQueueRead (l : Nat) (b : Block) : Block :=
  let k := getLink b l
  match (getCodec b l).run with
  | none => b
  | some run =>
    if !linkPresent b l || !run.job.ingress || run.ending.isSome then b
    else match run.seg, k.catchQ with
      | none, w :: r =>
        if !w.head then putLink b l { k with catchQ := r, cqMark := false, cqEnd := false }
        else if pktType w.data.toNat = 0x11 ∨ mayBegin k = false then b
        else
          let d := cqDecode k w
          let k' := presentWord d.2.2 (d.1, d.2.1) w (w.damaged || d.2.1)
          let b := putLink b l { k' with catchQ := r, cqIn := !w.last, cqMark := false, cqEnd := false }
          beginSeg b l d.1.toNat w.last (w.damaged || d.2.1)
      | none, [] => putLink b l (presentLull k)
      | some s, q =>
        if s.whole || s.stopped || s.ignored || !k.cqIn then b
        else if codecBarred b l then codecLost b l
        else match q with
          | [] => if k.cqEnd then segCut b l else putLink b l (presentLull k)
          | w :: r =>
            if w.head then segCut b l
            else if !(getRange b s.range).expand && !epRoom b (getRange b s.range).dst then b
            else
              let d := cqDecode k w
              let k' := presentWord d.2.2 (d.1, d.2.1) w (w.damaged || k.cqMark)
              let b := putLink b l { k' with catchQ := r, cqIn := !w.last, cqMark := false }
              segWord b l s d.1 d.2.1 w.last (w.damaged || k.cqMark)

def execCatchQueueRead (l : Nat) (s : State) := onBlock (clockedStep (catchQueueRead l)) s

/-- The rest of the current packet discarded: from the read pointer up to its END, and later words as they arrive. -/
def cqDrop (k : Link) : Link :=
  if !k.cqIn then k
  else
    let rest := k.catchQ.dropWhile (fun w => !w.head && !w.last)
    let k := { k with cqIn := false, cqMark := false, cqEnd := false }
    match rest with
    | w :: r => if w.head then { k with catchQ := rest } else { k with catchQ := r }
    | [] => { k with catchQ := [], dropping := k.cqOpen, cqOpen := k.cqOpen }

/-- R288: DROP_PACKET, issued for a segment that the ingress job does not take. -/
def dropPacket (l : Nat) (b : Block) : Block :=
  match (getCodec b l).run with
  | none => b
  | some run =>
    match run.seg with
    | none => b
    | some s =>
      if !(s.ignored || s.stopped) then b
      else
        let b := updLink b l cqDrop
        if s.ignored then updRun b l (fun r => { r with seg := none })
        else updRun b l (fun r => { r with seg := some { s with whole := true } })

def execDropPacket (l : Nat) (s : State) := onBlock (dropPacket l) s

/-! ## Landing (R293, R296) -/

/-- The bank sets a bit of the bitmap by an indivisible read-modify-write, which keeps the granule's mark (R235, R293). -/
def setSegBit (b : Block) (x : LRange) (k : Nat) : Block :=
  let a := epAddr b x.bitmap + k / 8
  let r := leeRead b (a / 16)
  let old := granuleBytes r.1
  let new := old.set (a % 16) (old.getD (a % 16) 0 ||| BitVec.ofNat 8 (2 ^ (k % 8)))
  { leeWrite r.2.2 0 (a / 16) (granuleOf new) r.2.1 with currents := b.currents }

/-- Everything of the segment has been used. -/
def segDone (b : Block) (r : CodRun) (s : Seg) : Bool :=
  s.whole && !s.ignored && r.owed == 0 && r.waiting.isEmpty && r.swaiting.isEmpty &&
    (s.stopped || !(getRange b s.range).expand || (!r.inFrame && r.hdr.isNone && r.pairs.isEmpty && r.inbuf.isEmpty))

/-- The segment has landed. -/
def segLanded (x : LRange) (s : Seg) : Bool :=
  !s.damaged && !s.stopped && decide (s.segno < x.count) && crc32c s.body == s.bcrc &&
    (s.out == x.segBytes || s.segno + 1 == x.count)

/-- R293, R296: the segment lands, or is marked damaged. -/
def segLand (l : Nat) (b : Block) : Block :=
  match (getCodec b l).run with
  | none => b
  | some r =>
    match r.seg with
    | none => b
    | some s =>
      if !segDone b r s then b
      else if codecBarred b l then codecLost b l
      else
        let x := getRange b s.range
        if segLanded x s && x.state == 1 then
          let b := setSegBit b x s.segno
          let done := x.landed + 1 == x.count
          let b := putRange b s.range { x with landed := x.landed + 1, state := if done then 2 else 1 }
          let b := updRun (closeCodec b l) l (fun r => { r with seg := none })
          if done && bit x.gate 15 then unitSignal b (0x4000 + l) (fld x.gate 12 0) x.gcount else b
        else
          let b := damageSeg b l
          let b := updRun (closeCodec b l) l (fun r => { r with seg := none })
          linkEvent (updLink b l (fun k => { k with cqDamaged := satAdd 16 k.cqDamaged 1 })) l 0x407 0

def execSegLand (l : Nat) (s : State) := onBlock (clockedStep (segLand l)) s

/-! ## PASS_END (R295) -/

/-- The maximal runs of clear bits of a bitmap from segment k on: first and length; fuel bounds the segments. -/
def clearRuns (bits : Nat) : Nat → Nat → Option Nat → List (Nat × Nat)
  | 0, k, start => (match start with
      | some s => [(s, k - s)]
      | none => [])
  | f + 1, k, start =>
    if bit bits k then
      (match start with
       | some s => (s, k - s) :: clearRuns bits f (k + 1) none
       | none => clearRuns bits f (k + 1) none)
    else clearRuns bits f (k + 1) (some (start.getD k))

/-- R295: the PASS_END packet at the front of the queue; under REFETCH 0b01 and 0b10 the gaps are asked for. -/
def passEnd (l : Nat) (b : Block) : Block :=
  let k := getLink b l
  match (getCodec b l).run, k.catchQ with
  | some run, w :: r =>
    if !linkPresent b l || !run.job.ingress || run.ending.isSome || run.seg.isSome || !w.head ||
        pktType w.data.toNat != 0x11 then b
    else
      let d := cqDecode k w
      let b := putLink b l { presentWord d.2.2 (d.1, d.2.1) w (w.damaged || d.2.1) with catchQ := r, cqIn := false }
      let id := fld d.1.toNat 103 96
      let x := getRange b id
      if x.state = 1 ∧ x.store = fld d.1.toNat 95 84 ∧ (x.refetch = 1 ∨ x.refetch = 2) then
        let m := bitmapBytes b x 0 ((x.count + 7) / 8)
        (clearRuns m.1 x.count 0 none).foldl (fun b p => sendRefetch b id x p.1 p.2) m.2
      else b
  | _, _ => b

def execPassEnd (l : Nat) (s : State) := onBlock (clockedStep (passEnd l)) s

/-! ## range_arm and range_free (R290, R291) -/

/-- The bound of R172 on the bytes of n input bytes. -/
def furlBound (n : Nat) : Nat := n + 16 * ((n + 4095) / 4096) + 32 * ((n + 65535) / 65536)

/-- A destination endpoint of a range: Lee in a PLAIN Region that takes n bytes, or fabric of the weight class. -/
def rangeDest (b : Block) (ep n : Nat) : Bool :=
  epReserved ep &&
  (match epKind ep with
   | 0 =>
     epOff ep % 16 == 0 &&
       (epLee b ep).any (fun r => r.kind = .plain && curUsable b r.cur && decide (epOff ep + n ≤ r.size))
   | 1 => epClass ep == 0 && epFabOff ep % 16 == 0 && decide (epFabOff ep + n ≤ 2 ^ 32)
   | _ => false)

/-- A range descriptor keeps the table of R290 and the limit of R291. -/
def rangeOk (b : Block) (d : Nat) (x : LRange) : Bool :=
  decide (1 ≤ x.count) && decide (x.count ≤ 65536) &&
  x.segBytes % 16 == 0 && decide (16 ≤ x.segBytes) && decide (x.segBytes ≤ 1040384) &&
  rangeDest b x.dst (x.segBytes * x.count) &&
  (if x.paired then x.expand && x.ssegBytes % 16 == 0 && rangeDest b x.sdst (x.ssegBytes * x.count)
   else x.sdst == 0) &&
  epKind x.bitmap == 0 && epReserved x.bitmap && epOff x.bitmap % 16 == 0 &&
  (epLee b x.bitmap).any (fun r =>
    r.kind = .plain && curUsable b r.cur && decide (epOff x.bitmap + (x.count + 127) / 128 * 16 ≤ r.size)) &&
  isZero d 303 300 && isZero d 311 308 && decide (x.refetch ≤ 2) && decide (x.link < 24) &&
  isZero d 334 333 && (!bit x.gate 15 || x.gcount != 0) && isZero d 511 352 &&
  (!x.expand || decide (furlBound x.segBytes + (if x.paired then furlBound x.ssegBytes else 0) ≤ 1048560))

/-- The range of a descriptor. -/
def rangeOf (d : Nat) : LRange where
  state := 1
  landed := 0
  dst := fld d 63 0
  sdst := fld d 127 64
  bitmap := fld d 191 128
  segBytes := fld d 223 192
  ssegBytes := fld d 255 224
  count := fld d 287 256
  store := fld d 299 288
  expand := bit d 304
  paired := bit d 305
  refetch := fld d 307 306
  link := fld d 319 312
  gate := fld d 335 320
  gcount := fld d 351 336

/-- R290: range_arm of range r with the descriptor at an address: the status, and the block. -/
def armRange (b : Block) (r a : Nat) : Nat × Block :=
  if (getRange b r).state ≠ 0 then (0x40B, b)
  else
    let d := leeBytesAt b a 64
    let v := markedNat d.1
    let x := rangeOf v.1
    if v.2 || !rangeOk d.2 v.1 x then (0x40C, d.2)
    else
      let n := (x.count + 127) / 128 * 16
      let z := leeWriteBytes d.2 0 (epAddr d.2 x.bitmap) (List.replicate n (0, false))
      (0, putRange { z with currents := b.currents } r x)

/-- R290: range_free. -/
def freeRange (b : Block) (r : Nat) : Block := putRange b r LRange.fresh

/-- R308: CLR_STAT. -/
def wsClr (b : Block) : Block := { b with dups := 0, unknown := 0 }

def execWsCtrlClrStat (s : State) := onBlock wsClr s

end Sys2Proof.Machine
end

