-- ==== Sys2Proof/Machine/LeeUnits.lean ====
section
/-! DEFINITION. What the Lee banks do for the fabric and on their own: atomics, reductions, ZERO and scrubbing (R234 to
R245). -/

namespace Sys2Proof.Machine

/-! ## Atomics (R234 to R236) -/

/-- One 32-bit lane of FADD32. -/
def fadd32 (x y : Nat) : Nat := (toF32 (Value.add (fpDecode 10 x) (fpDecode 10 y))).toNat

/-- One 16-bit lane of FADD16. -/
def fadd16 (x y : Nat) : Nat := (fpConvert 8 .near false (Value.add (fpDecode 8 x) (fpDecode 8 y))).code

/-- The incoming element (w, j) wins over the stored one (v, i) (R236). -/
def extremeWins (larger : Bool) (old new : Nat) : Bool :=
  let v := fpDecode 10 (fld old 31 0)
  let w := fpDecode 10 (fld new 31 0)
  let lower := decide (fld new 63 32 < fld old 63 32)
  if v.isNan && w.isNan then lower
  else if v.isNan then false
  else if w.isNan then true
  else if Value.lt v w then larger
  else if Value.lt w v then !larger
  else lower

/-- An operation on every element of width k bits of a granule. -/
def lanes (k : Nat) (f : Nat → Nat → Nat) (old new : Nat) : Nat :=
  (List.range (128 / k)).foldl (fun acc i =>
    acc + f (fld old (k * i + k - 1) (k * i)) (fld new (k * i + k - 1) (k * i)) % 2 ^ k * 2 ^ (k * i)) 0

/-- The granule that an atomic stores (R234). -/
def atomicResult (op : Nat) (old new : Granule) : Granule :=
  BitVec.ofNat 128 (match op with
    | 1 => lanes 32 fadd32 old.toNat new.toNat
    | 2 => lanes 16 fadd16 old.toNat new.toNat
    | 3 => lanes 32 (fun x y => x + y) old.toNat new.toNat
    | 4 => lanes 64 (fun x y => if extremeWins true x y then y else x) old.toNat new.toNat
    | 5 => lanes 64 (fun x y => if extremeWins false x y then y else x) old.toNat new.toNat
    | _ => new.toNat)

/-! ## Placement (R237, R239, R241) -/

/-- An event of a Region recorded once per job. -/
def regionOnce (b : Block) (id code : Nat) : Block :=
  match getRegion b id with
  | none => b
  | some r =>
    if r.once.contains code then b
    else report (putRegion b id { r with once := setInsert r.once code }) (0x7000 + id) code 0

/-- A granule discarded by R237. -/
def refuseGran (b : Block) (id : Nat) (r : Region) : Block :=
  regionOnce (updCur b r.cur (fun c => { c with atomRefused := satAdd 16 c.atomRefused 1 })) id 0x609

/-- A granule or a contribution end discarded by R241. -/
def lateDrop (b : Block) (id : Nat) (r : Region) : Block :=
  let b := readHeader b r
  let st := redStatus b r
  let b := putHeader b r 8 (setFld st 31 12 (satAdd 20 (fld st 31 12) 1))
  regionOnce (updCur b r.cur (fun c => { c with atomLate := satAdd 16 c.atomLate 1 })) id 0x608

/-- The bank ALU applies one granule (R235, R56). -/
def bankApply (b : Block) (r : Region) (op off : Nat) (d : Granule) (poison : Bool) : Block :=
  let g := (regionAddr r + off) / 16
  if op = 0 then leeWrite b r.cur g d poison
  else
    let o := leeRead b g
    leeWrite o.2.2 r.cur g (atomicResult op o.1 d) (poison || o.2.1)

/-- A poisoned add sets POISON of a REDUCE Region (R240). -/
def notePoison (b : Block) (r : Region) (op : Nat) (poison : Bool) : Block :=
  let b' := readHeader b r
  if poison && op != 0 then putHeader b' r 8 (setFld (redStatus b' r) 61 61 1) else b

/-- A granule of a fabric message reaches its Region; f and s are its port and arrival number. -/
def placeGran (b : Block) (f s id op off : Nat) (d : Granule) (poison : Bool) : Block :=
  match getRegion b id with
  | none => b
  | some r =>
    if r.size < off + 16 then refuseGran b id r
    else match r.kind with
      | .plain => bankApply b r op off d poison
      | .reduce =>
        if off < 64 then refuseGran b id r
        else if r.zero = .arm then putRegion b id { r with waiting := r.waiting ++ [(f, s, .gran id op off d poison)] }
        else
          let b := readHeader b r
          if redArmed b r then notePoison (bankApply b r op off d poison) r op poison
          else lateDrop b id r
      | _ => refuseGran b id r

/-- A contribution ends at a Region (R240, R241). -/
def placeEnd (b : Block) (f s id : Nat) : Block :=
  match getRegion b id with
  | none => b
  | some r =>
    if r.kind != .reduce then b
    else if r.zero = .arm then putRegion b id { r with waiting := r.waiting ++ [(f, s, .cend id)] }
    else if !redArmed (readHeader b r) r then lateDrop b id r
    else
      let b := readHeader b r
      let st := redStatus b r
      let n := fld st 47 32 + 1
      if n = r.expect then
        let b := putHeader b r 8 (setFld (setFld (setFld st 47 32 n) 63 63 0) 62 62 1)
        if r.gen then unitSignal b (0x7000 + id) r.gate r.gcount else b
      else putHeader b r 8 (setFld st 47 32 n)

/-- An operation at its Region, with its port and arrival number. -/
def placeOp (b : Block) : Nat × Nat × RxOp → Block
  | (f, s, .gran id op off d p) => placeGran b f s id op off d p
  | (f, s, .cend id) => placeEnd b f s id
  | _ => b

/-- The Region that an operation names. -/
def opRegion (o : RxOp) : Option Nat :=
  match o with
  | .gran id _ _ _ _ => some id
  | .cend id => some id
  | _ => none

/-- A port's operation that the seam does not carry is lost; its Flow job, when it holds the Region, stops (R21). -/
def opLost (b : Block) (f : Nat) (r : Region) : Block :=
  if r.held then seamError b (0x5000 + f) else reportAs b (0x5000 + f) 2 (Config.seamLostCode % 4096) 0

/-- A granule on its way from a port to its Region: over the half-crossbars and the switch of its Current (R338). -/
def carryOp (b : Block) (f : Nat) (r : Region) (o : RxOp) : RxOp × Block :=
  match o with
  | .gran id op off d p =>
    let t := movePath b (.edge (portHalf f)) (.cur r.cur) [(d, p)]
    let g := t.1.headD (d, p)
    (.gran id op off g.1 g.2, t.2)
  | _ => (o, b)

/-- An operation that a port has read out goes to its Region. -/
def portOp (b : Block) (f s : Nat) (o : RxOp) : Block :=
  match (opRegion o).bind (getRegion b) with
  | none => b
  | some r =>
    if seamBars b (portHalf f) (curHalf r.cur) then opLost b f r
    else
      let t := carryOp b f r o
      placeOp t.2 (f, s, t.1)

/-! ## The operations that a port has read out -/

/-- The first operation that a test picks, given those before it; its place. -/
def firstOp (p : List (Nat × Nat × RxOp) → Nat × Nat × RxOp → Bool) :
    List (Nat × Nat × RxOp) → List (Nat × Nat × RxOp) → Option (Nat × Nat × Nat × RxOp)
  | _, [] => none
  | before, o :: r => if p before o then some (before.length, o) else firstOp p (before ++ [o]) r

/-- The operation is a granule. -/
def isGran (o : RxOp) : Bool :=
  match o with
  | .gran .. => true
  | _ => false

/-- The operation is a granule of a class for a Region. -/
def isGranOf (cls id : Nat) (o : Nat × Nat × RxOp) : Bool :=
  match o.2.2 with
  | .gran r _ _ _ _ => o.2.1 == cls && r == id
  | _ => false

/-- R235, R237, R241: the bank applies the port's next granule. -/
def atomicApply (f : Nat) (b : Block) : Block :=
  match firstOp (fun _ o => isGran o.2.2) [] (getPort b f).ops with
  | none => b
  | some (i, s, _, op) => portOp (updPort b f (fun p => { p with ops := dropAt p.ops i })) f s op

def execAtomicApply (f : Nat) (s : State) := onBlock (clockedStep (atomicApply f)) s

/-- R240: the port's next contribution end counts, once the adds before it are applied. -/
def contributionEnd (f : Nat) (b : Block) : Block :=
  match firstOp (fun before o => match o.2.2 with
      | .cend id => !before.any (isGranOf o.2.1 id)
      | _ => false) [] (getPort b f).ops with
  | none => b
  | some (i, s, _, op) => portOp (updPort b f (fun p => { p with ops := dropAt p.ops i })) f s op

def execContributionEnd (f : Nat) (s : State) := onBlock (clockedStep (contributionEnd f)) s

/-! ## Arms (R239) -/

/-- ARMST written, and nothing else. -/
def setArmst (b : Block) (r : Region) (code : Nat) : Block := putHeader b r 8 (setFld (redStatus b r) 11 0 code)

/-- The result of an arm, for a host command. -/
def armDone (b : Block) (src : ArmSrc) (code : Nat) : Block :=
  match src with
  | .host s => finishCmd b s code 0 code
  | .eddy _ _ => b

/-- An accepted arm (R239 step 3): COUNT, LATE, COMPLETE and POISON become 0, and ARMED 1 unless the data area is to be
zeroed first. -/
def acceptArm (b : Block) (id : Nat) (r : Region) (w : Nat) : Block :=
  let b := putHeader b r 0 (setFld w 63 63 0)
  let b := putHeader b r 8 (if bit w 62 then 0 else 2 ^ 63)
  putRegion b id { r with
    armReqs := r.armReqs.tail
    gate := fld w 60 48
    gcount := fld w 47 32
    gen := bit w 61
    expect := fld w 15 0
    zero := if bit w 62 then .arm else .none }

/-- R239: the bank checks the next arm that has landed on ARMWORD, or that the host commands. -/
def reduceArm (id : Nat) (b : Block) : Block :=
  match getRegion b id with
  | none => b
  | some r =>
    match r.armReqs with
    | [] => b
    | ⟨w, poison, src⟩ :: rest =>
      let b := readHeader b r
      let b' := putRegion b id { r with armReqs := rest }
      if poison then stopJob (report (setArmst b' r 0x60E) (0x7000 + id) 0x60E 0) 0x60E
      else if redArmed b r || r.zero = .arm then armDone (setArmst b' r 0x607) src 0x607
      else if fld w.toNat 15 0 = 0 || (bit w.toNat 61 && fld w.toNat 47 32 == 0) then
        armDone (setArmst b' r 0x604) src 0x604
      else if r.zero != .none then b
      else armDone (acceptArm b id r w.toNat) src 0

def execReduceArm (rid : Nat) (s : State) := onBlock (clockedStep (reduceArm rid)) s

/-! ## ZERO (R242) -/

/-- Clean zero granules over a granule-aligned range. -/
def leeZero (b : Block) (a n : Nat) : Block :=
  let l := b.lee
  { b with lee := { l with
      mem := l.mem.filter (fun c => decide (c.1 < a) || decide (a + n ≤ c.1))
      poison := l.poison.filter (fun g => decide (16 * g < a) || decide (a + n ≤ 16 * g))
      err := l.err.filter (fun c => decide (16 * c.1 < a) || decide (a + n ≤ 16 * c.1)) } }

/-- The range that a running ZERO clears: its address and length. -/
def zeroRange (r : Region) : Nat × Nat :=
  match r.zero with
  | .none => (regionAddr r, 0)
  | .arm => (regionAddr r + 64, r.size - 64)
  | .host _ off len => (regionAddr r + off, len)
  | .free _ => (regionAddr r, r.size)

/-- The part of a range in the Eddy range of Eddy i that its banks write from Lee cycle k up to cycle m of a ZERO: address
and length. Every bank writes one bank word in a cycle, in ascending row order (R231, R242). -/
def zeroPart (b : Block) (i lo n k m : Nat) : Nat × Nat :=
  let base := i / 16 * 2 ^ 31 + i % 16 * 0xC00000
  let from_ := max lo base
  let to_ := min (lo + n) (base + 0xC00000)
  let row := 32 * bankCount b i
  let w0 := base + (from_ - base) / 32 * 32
  let a := max from_ (w0 + k * row)
  (a, min to_ (w0 + m * row) - a)

/-- Lee cycles k up to m of the ZERO of a Region, on every Eddy range of its Current. -/
def zeroCycles (b : Block) (r : Region) (k m : Nat) : Block :=
  (List.range 16).foldl (fun b j =>
    let p := zeroPart b (16 * r.cur + j) (zeroRange r).1 (zeroRange r).2 k m
    leeZero b p.1 p.2) b

/-- A Lee cycle passes for the ZERO of a Region, if one runs. -/
def zeroCycle (b : Block) (id : Nat) : Block :=
  match getRegion b id with
  | none => b
  | some r =>
    if r.zero = .none || !leeRuns b r.cur then b
    else putRegion (zeroCycles b r r.zeroDone (r.zeroDone + 1)) id { r with zeroDone := r.zeroDone + 1 }

/-- The bank words that a ZERO has still to write. -/
def zeroRest (b : Block) (r : Region) : Block := zeroCycles b r r.zeroDone (0xC00000 / 32 + 1)

/-- A Region is gone: its ID and its space are free. -/
def dropRegion (b : Block) (id : Nat) : Block :=
  { b with lee := { b.lee with regions := Table.erase b.lee.regions id } }

/-- R239, R242, R413: a ZERO ends, with the bank words that remained. -/
def zeroEnd (id : Nat) (b : Block) : Block :=
  match getRegion b id with
  | none => b
  | some r =>
    let done := { r with zero := .none, zeroDone := 0 }
    if !leeRuns b r.cur then b
    else match r.zero with
      | .none => b
      | .arm =>
        let b := readHeader (zeroRest b r) r
        let b := putHeader b r 8 (setFld (redStatus b r) 63 63 1)
        r.waiting.foldl placeOp (putRegion b id { done with waiting := [] })
      | .host src _ _ => finishCmd (putRegion (zeroRest b r) id done) src 0 0 0
      | .free src =>
        let b := dropRegion (zeroRest b r) id
        match src with
        | some s => finishCmd b s 0 0 0
        | none => b

def execZeroEnd (rid : Nat) (s : State) := onBlock (zeroEnd rid) s

/-! ## Scrub (R243, R244) -/

/-- The scrub of one granule; an uncorrectable one counts in SCRUB_STAT. -/
def scrubGran (b : Block) (g : Nat) : Block :=
  let bad : Bool := match Table.find b.lee.err g with
    | none => false
    | some pat =>
      (decodeGranule (encodeGranule (memGran b.lee.mem g) (b.lee.poison.contains g) ^^^ pat)).2 = .uncorrectable
  let b := (leeRead b g).2.2
  if bad then updCur b (addrCur (16 * g)) (fun c => { c with scrubUncorr := satAdd 16 c.scrubUncorr 1 }) else b

/-- The rows of a bank: 256 KiB in bank words of 32 B. -/
def bankRows : Nat := 8192

/-- R243: physical bank k of Eddy i scrubs its next bank word; the pass begins again after the last row. -/
def scrubTick (i k : Nat) (b : Block) : Block :=
  let banks := banksInService b i
  match banks.findIdx? (fun j => j == k) with
  | none => b
  | some slot =>
    if 128 ≤ i || !leeRuns b (i / 16) || !(getCur b (i / 16)).scrubEn then b
    else
      let row := (getBank b i k).row
      let a := i / 16 * 2 ^ 31 + i % 16 * 0xC00000 + 32 * (row * banks.length + slot)
      let b := scrubGran (scrubGran b (a / 16)) (a / 16 + 1)
      let x := getBank b i k
      if row + 1 < bankRows then putBank b i k { x with row := row + 1 }
      else
        let b := putBank b i k { x with row := 0, passCorr := 0, passGran := [] }
        if i % 16 = 0 ∧ k = 0 then
          updCur b (i / 16) (fun c => { c with scrubPasses := satAdd 16 c.scrubPasses 1 })
        else b

def execScrubTick (i b : Nat) (s : State) := onBlock (scrubTick i b) s

end Sys2Proof.Machine
end

