-- ==== Sys2Proof/Machine/Fabric.lean ====
section
/-! DEFINITION. The fabric ports: receiving, sending, credits, port states, and the stash flits of a Furl job (R246, R310
to R332). -/

namespace Sys2Proof.Machine

/-! ## The flit (R310) -/

/-- The stored word of granule i of a flit. -/
def flitWord (f : BitVec 2304) (i : Nat) : Stored :=
  BitVec.ofNat 144 (fld f.toNat (128 * i + 127) (128 * i) + fld f.toNat (2048 + 16 * i + 15) (2048 + 16 * i) <<< 128)

/-- The sixteen granules of a flit as its reader finds them. -/
def flitGrans (f : BitVec 2304) : List (Granule × ReadOutcome) :=
  (List.range 16).map (fun i => decodeGranule (flitWord f i))

/-- A flit of at most sixteen granules; the others are clean zero granules. -/
def fabFlit (l : List (Granule × Bool)) : BitVec 2304 :=
  BitVec.ofNat 2304 ((List.range 16).foldl (fun a i =>
    let g := l.getD i (0, false)
    let w := (encodeGranule g.1 g.2).toNat
    a + w % 2 ^ 128 * 2 ^ (128 * i) + w / 2 ^ 128 * 2 ^ (2048 + 16 * i)) 0)

/-! ## Message headers (R313) -/

def mhOp (h : Nat) : Nat := fld h 123 120
def mhCend (h : Nat) : Bool := bit h 119
def mhRegion (h : Nat) : Nat := fld h 116 105
def mhOff (h : Nat) : Nat := fld h 104 73
def mhLen (h : Nat) : Nat := fld h 72 56
def mhArg (h : Nat) : Nat := fld h 55 0

/-- A message header. -/
def msgHeader (op region off len : Nat) : Nat :=
  0xA * 2 ^ 124 + op * 2 ^ 120 + region * 2 ^ 105 + off * 2 ^ 73 + len * 2 ^ 56

/-- A header copy qualifies (R315). -/
def copyOk (g : Granule × ReadOutcome) : Bool :=
  (g.2 == .clean || g.2 == .corrected) && fld g.1.toNat 127 124 == 0xA

/-! ## Port events -/

/-- An event of a port. -/
def portEvent (b : Block) (f code : Nat) : Block := report b (0x5000 + f) code 0

/-- An event recorded once per port per Flow job. -/
def portOnce (b : Block) (f code : Nat) : Block :=
  let p := getPort b f
  if p.once.contains code then b else portEvent (putPort b f { p with once := setInsert p.once code }) f code

/-! ## A port leaves UP (R329, R330) -/

/-- The port has rows of a DRAIN of an Eddy still to send. -/
def drainOwes (p : Port) (f : Nat) (x : Eddy) (e : Nat) : Bool :=
  x.matOps.any (fun m => match m.2 with
    | .drain o => o.toPort && o.port == f
    | _ => false) ||
    p.tx.any (fun q => q.2.any (fun m => m.owner == .drain e))

/-- An Eddy's DRAIN to the port stops its job (0x306). -/
def stopDrain (b : Block) (f : Nat) (p : Port) (e : Nat) : Block :=
  let x := getEddy b e
  if !drainOwes p f x e then b
  else
    let pc := ((x.matOps.filterMap (fun m => match m.2 with
      | .drain o => if o.toPort && o.port == f then some o.pc else none
      | _ => none)).head?).getD x.pc
    taskFault (updEddy b e (fun x => { x with matOps := x.matOps.filter (fun m => match m.2 with
      | .drain o => !(o.toPort && o.port == f)
      | _ => true) })) e pc 0x306

/-- Walking a class's flits in the baffle: the head of the message in progress and the granules still to come. -/
def openMessage (start : Option (Nat × Nat)) : List RxFlit → Option (Nat × Nat)
  | [] => start
  | f :: r =>
    match start with
    | some (s, left) => openMessage (if left ≤ 16 then none else some (s, left - 16)) r
    | none =>
      let n := mhLen ((f.grans.headD (0, false)).1.toNat)
      openMessage (if n = 0 then none else some (f.seq, n)) r

/-- The arrival number of the head of a class's interrupted message. -/
def interruptedAt (p : Port) (c : Nat) : Option Nat :=
  (openMessage ((Table.find p.cur c).map (fun m => (m.seq, m.left)))
    (p.baffle.filter (fun f => f.cls == c))).map (·.1)

/-- The flits and operations of interrupted messages are gone; those of whole messages stay. -/
def dropInterrupted (p : Port) : Port :=
  let cut (c s : Nat) : Bool := (interruptedAt p c).any (fun h => decide (h ≤ s))
  { p with
    held := []
    baffle := p.baffle.filter (fun f => !cut f.cls f.seq && f.cls != 1)
    ops := p.ops.filter (fun o => !cut o.2.1 o.1)
    cur := p.cur.filter (fun m => !cut m.1 m.2.seq && m.1 != 1) }

/-- The segment of an ingress job whose output goes to a port loses what the port had not sent (log 64). -/
def loseSegment (b : Block) (f u : Nat) : Block :=
  match (getCodec b u).run.bind (·.seg) with
  | none => b
  | some s =>
    let x := getRange b s.range
    if [x.dst, x.sdst].any (fun ep => epKind ep == 1 && epPort ep == f) then
      updRun (damageSeg b u) u (fun r => { r with owed := 0 })
    else b

/-- R329: a port goes from UP to DOWN or RESET. -/
def portFalls (b : Block) (f st : Nat) : Block :=
  let p := getPort b f
  let b := putPort b f { dropInterrupted p with
    state := st, credits := [0, 0, 0, 0], frame := [0, 0, 0, 0], tx := [], txFlit := 0, txValid := false, txCls := 0
    rxCr := [0, 0, 0, 0] }
  let b := (b.streams.filter (fun s => s.2.active.any (fun x => epKind x.dst == 1 && epPort x.dst == f))).foldl
    (fun b s => endActive b s.1 0x504 true) b
  let on (ep : Nat) : Bool := epKind ep == 1 && epPort ep == f
  let b := (b.codecs.filter (fun c => c.2.run.any (fun r =>
      on r.job.src || (!r.job.ingress && on r.job.dst) || on r.job.sdst))).foldl
    (fun b c => endCodec b c.1 0x504 ((getCodec b c.1).run.any (fun r => on r.job.dst || on r.job.sdst))) b
  let b := (List.range 24).foldl (fun b u => loseSegment b f u) b
  let b := (b.eddies.map (·.1)).foldl (fun b e => stopDrain b f p e) b
  bumpRecord (portEvent b f 0x504)

/-- R330: a port resets. -/
def resetPort (b : Block) (f : Nat) : Block :=
  let p := getPort b f
  let b := if p.state = 1 then portFalls b f 2 else b
  updPort b f (fun p => { p with state := 2, up := false, resets := satAdd 8 p.resets 1 })

/-- The block may hold FAB_UP high on a port (R328). -/
def mayRaise (b : Block) (f : Nat) : Bool :=
  !(getPort b f).dis &&
    (match b.start.phase with
     | .run => decide (f < 64)
     | .calm => f == 0
     | .stage n => f == 0 && b.start.straps.boot == 1 && decide (2 ≤ n)
     | .reset => false)

/-- R330: a port reset, by any of its causes. -/
def portReset (f : Nat) (b : Block) : Block :=
  if f < 64 ∧ (getPort b f).state = 1 then resetPort b f else b

def execPortReset (f : Nat) (s : State) := onBlock (portReset f) s

/-- R330: after 64 fabric cycles the port raises FAB_UP again. -/
def portResetEnd (f : Nat) (b : Block) : Block :=
  if (getPort b f).state = 2 then updPort b f (fun p => { p with state := 0, up := mayRaise b f }) else b

def execPortResetEnd (f : Nat) (s : State) := onBlock (portResetEnd f) s

/-- R328: both ends have been up for 16 fabric cycles. -/
def portBecomesUp (f : Nat) (b : Block) : Block :=
  let p := getPort b f
  if f < 64 ∧ p.state = 0 ∧ p.up = true then
    recordChange (putPort b f { p with peer := true, state := 1, credits := [32, 32, 32, 32], frame := [0, 0, 0, 0] })
  else b

def execPortUp (f : Nat) (s : State) := onBlock (portBecomesUp f) s

/-- R329: FAB_PEER_UP_f is sampled low. -/
def peerDown (f : Nat) (b : Block) : Block :=
  if 64 ≤ f then b
  else
    let st := (getPort b f).state
    let b := updPort b f (fun p => { p with peer := false })
    if st = 1 then portFalls b f 0 else b

def execPeerDown (f : Nat) (s : State) := onBlock (peerDown f) s

/-- R330: FAB.CMD.RESET, in every state of the port. -/
def fabCmdReset (f : Nat) (b : Block) : Block := if 64 ≤ f then b else resetPort b f

def execFabCmdReset (f : Nat) (s : State) := onBlock (fabCmdReset f) s

/-- R332: FAB.CMD.CLR_COUNTS. -/
def fabCmdClr (f : Nat) (b : Block) : Block :=
  updPort b f (fun p => { p with flitsTx := 0, flitsRx := 0, corr := 0, proto := 0, resets := 0, padded := 0 })

def execFabCmdClrCounts (f : Nat) (s : State) := onBlock (fabCmdClr f) s

/-- R328: a write of FAB.CFG.DIS. -/
def fabCfgDis (f : Nat) (dis : Bool) (b : Block) : Block :=
  if 64 ≤ f then b
  else
    let st := (getPort b f).state
    let b := updPort b f (fun p => { p with dis := dis })
    if dis then
      let b := updPort b f (fun p => { p with up := false })
      if st = 1 then portFalls b f 0 else b
    else if st = 2 then b
    else updPort b f (fun p => { p with up := mayRaise b f })

def execFabCfgDis (f : Nat) (dis : Bool) (s : State) := onBlock (fabCfgDis f dis) s

/-! ## Receiving (R315 to R319) -/

/-- The receive entries of a class that are occupied. -/
def rxHeld (p : Port) (c : Nat) : Nat := p.held.countP (fun x => x.cls == c)

/-- R315, R319: an inbound flit is captured, takes a receive entry and advances framing. -/
def fabricFlitReceive (f c : Nat) (flit : BitVec 2304) (b : Block) : Block :=
  let p := getPort b f
  if 64 ≤ f ∨ 4 ≤ c ∨ p.state ≠ 1 then b
  else if 32 ≤ rxHeld p c then resetPort (portEvent b f 0x503) f
  else
    let g := flitGrans flit
    let left := p.frame.getD c 0
    let marked : List (Granule × Bool) := g.map (fun x => (x.1, x.2 == .poisoned || x.2 == .uncorrectable))
    let p := { p with
      flitsRx := p.flitsRx + 1
      corr := satAdd 16 p.corr (g.countP (fun x => x.2 == .corrected))
      rxSeq := p.rxSeq + 1 }
    if left = 0 then
      match ([g.headD (0, .uncorrectable), g.getD 1 (0, .uncorrectable)].find? copyOk) with
      | none => resetPort (portEvent (putPort b f p) f 0x502) f
      | some h =>
        putPort b f { p with
          frame := setAt p.frame c ((mhLen h.1.toNat + 15) / 16)
          held := p.held ++ [⟨p.rxSeq, c, true, (h.1, false) :: marked.drop 1⟩] }
    else
      putPort b f { p with
        frame := setAt p.frame c (left - 1)
        held := p.held ++ [⟨p.rxSeq, c, false, marked⟩] }

def execFabricFlitReceive (f cls : Nat) (flit : BitVec 2304) (s : State) := onBlock (fabricFlitReceive f cls flit) s

/-! ## The checks of a message (R312 to R314, R323, R326) -/

/-- The Region that a message may name: allocated, not being freed, in a usable Current. -/
def messageRegion (b : Block) (id : Nat) : Option Region :=
  match getRegion b id with
  | some r =>
    let freeing := match r.zero with
      | .free _ => true
      | _ => false
    if id ≠ 0 ∧ freeing = false ∧ curUsable b r.cur = true then some r else none
  | none => none

/-- A BOOT_DATA message answers the request that is out (R326). -/
def bootAnswers (b : Block) (f h : Nat) : Bool :=
  f == 0 && b.start.phase == .stage 2 && b.start.bootReq == some (mhOff h, mhLen h)

/-- The OP of a message is allowed in its class on its port. -/
def opAllowed (b : Block) (f c h : Nat) : Bool :=
  if c ≤ 1 then mhOp h == 0
  else if c = 2 then decide (mhOp h ≤ 5)
  else mhOp h == 0 || mhOp h == 8 || (mhOp h == 0xA && bootAnswers b f h)

/-- The message is discarded whole (R323). -/
def messageBad (b : Block) (f c : Nat) (grans : List (Granule × Bool)) : Bool :=
  let h := (grans.headD (0, false)).1.toNat
  let gsig := c == 3 && mhOp h == 8
  let boot := c == 3 && mhOp h == 0xA
  !opAllowed b f c h || (mhCend h && c != 2) || mhOff h % 16 != 0 || decide (65536 < mhLen h) || !isZero h 118 117 ||
    (grans.drop 2).any (fun g => g.1 != 0) ||
    (if gsig then fld h 55 29 != 0 || fld h 15 0 == 0 || mhLen h != 0 || mhRegion h != 0
     else mhArg h != 0 || (!boot && (messageRegion b (mhRegion h)).isNone))

/-! ## Into the baffle (R318) -/

/-- The credit-return bit of a class is high for one fabric cycle (R317). -/
def returnCredit (p : Port) (c : Nat) : Port := { p with rxCr := setAt p.rxCr c (p.rxCr.getD c 0 + 1) }

/-- A held stash flit belongs to a message that is discarded; the others wait for a Furl job (R246). -/
def stashDiscarded (b : Block) (f : Nat) (p : Port) (x : RxFlit) : Bool :=
  if x.head then messageBad b f 1 x.grans
  else
    (Table.find p.cur 1).any (·.discard) ||
      (openMessage none (p.baffle.filter (fun y => y.cls == 1))).isSome

/-- R318: the oldest held flit of a class passes into the baffle and returns its credit. -/
def fabricCreditFree (f c : Nat) (b : Block) : Block :=
  let p := getPort b f
  match p.held.find? (fun x => x.cls == c) with
  | none => b
  | some x =>
    if 16 ≤ p.baffle.length ∨ (c = 1 ∧ stashDiscarded b f p x = false) then b
    else putPort b f (returnCredit { p with held := p.held.erase x, baffle := p.baffle ++ [x] } c)

def execFabricCreditFree (f c : Nat) (s : State) := onBlock (fabricCreditFree f c) s

/-! ## Reading messages (R323 to R326) -/

/-- The operations of a body flit. -/
def bodyOps (m : RxMsg) (x : RxFlit) : List (Nat × Nat × RxOp) :=
  if m.discard then []
  else if x.cls = 3 ∧ m.op = 0xA then
    [(x.seq, x.cls, .boot m.off ((x.grans.take m.left).flatMap (fun g => granuleBytes g.1)))]
  else
    ((x.grans.take m.left).zipIdx.map (fun g => (x.seq, x.cls, .gran m.region m.op (m.off + 16 * g.2) g.1.1 g.1.2)))

/-- The contribution end of a message whose last granules are read. -/
def endOps (m : RxMsg) (seq c : Nat) : List (Nat × Nat × RxOp) :=
  if m.cend && !m.discard then [(seq, c, .cend m.region)] else []

/-- A head flit read from the baffle. -/
def readHead (b : Block) (f : Nat) (x : RxFlit) : Block :=
  let h := (x.grans.headD (0, false)).1.toNat
  let bad := messageBad b f x.cls x.grans
  let b := if bad then
      portOnce (updPort b f (fun p => { p with proto := satAdd 8 p.proto 1 })) f 0x501 else b
  let m : RxMsg := ⟨x.seq, bad, mhOp h, mhRegion h, mhOff h, mhLen h, mhCend h⟩
  let gsig := x.cls = 3 ∧ mhOp h = 8 ∧ bad = false
  updPort b f (fun p =>
    if gsig then { p with ops := p.ops ++ [(x.seq, 3, .gsig (fld h 28 16) (fld h 15 0))] }
    else if mhLen h = 0 then { p with ops := p.ops ++ endOps m x.seq x.cls }
    else { p with cur := Table.add p.cur x.cls m })

/-- R323, R324: the port side reads the next flit of the baffle; in Hold it reads no further flit while operations wait for
Lee (R396). -/
def fabricMessage (f : Nat) (b : Block) : Block :=
  let p := getPort b f
  match p.baffle with
  | [] => b
  | x :: r =>
    if b.power.hold && !p.ops.isEmpty then b
    else
    let b := putPort b f { p with baffle := r }
    if x.head then readHead b f x
    else match Table.find p.cur x.cls with
      | none => b
      | some m =>
        let m' := { m with off := m.off + 256, left := m.left - 16 }
        updPort b f (fun p => { p with
          ops := p.ops ++ bodyOps m x ++ (if m'.left = 0 then endOps m x.seq x.cls else [])
          cur := if m'.left = 0 then Table.erase p.cur x.cls else Table.add p.cur x.cls m' })

def execFabricMessage (f : Nat) (s : State) := onBlock (fabricMessage f) s

/-- Something of the classes 0, 2 and 3 came to port f before an arrival number and is not applied: it waits at the port, or
is among the operations that a zeroing Region holds (R239, R325). -/
def earlierPending (b : Block) (f : Nat) (p : Port) (s : Nat) : Bool :=
  b.lee.regions.any (fun r => r.2.waiting.any (fun o => o.1 == f && decide (o.2.1 < s))) || p.ops.any (fun o => decide (o.1 < s) && o.2.1 != 1) ||
    (p.held ++ p.baffle).any (fun x => decide (x.seq < s) && x.cls != 1)

/-- R325: a GSIG takes effect after the flits before it. -/
def fabricGsig (f : Nat) (b : Block) : Block :=
  let p := getPort b f
  match firstOp (fun _ o => match o.2.2 with
      | .gsig _ _ => true
      | _ => false) [] p.ops with
  | some (i, s, _, .gsig g n) =>
    if earlierPending b f p s then b
    else
      let b := updPort b f (fun p => { p with ops := dropAt p.ops i })
      let k := getGate b g
      if !b.job.running || !k.held || k.barUse then portOnce b f 0x505
      else if seamBars b (portHalf f) (curHalf (g / 1024)) then seamError b (0x5000 + f)
      else addSignal b g n
  | _ => b

def execFabricGsig (f : Nat) (s : State) := onBlock (clockedStep (fabricGsig f)) s

/-- R326: the words of a BOOT_DATA message enter Windsock SRAM; the request ends with its last granule. -/
def bootData (f : Nat) (b : Block) : Block :=
  match firstOp (fun _ o => match o.2.2 with
      | .boot _ _ => true
      | _ => false) [] (getPort b f).ops with
  | some (i, _, _, .boot off d) =>
    let b := updPort b f (fun p => { p with ops := dropAt p.ops i })
    let s := b.start
    let image := s.image.take off ++ d
    let done := s.bootReq.any (fun q => decide (q.1 + 16 * q.2 ≤ image.length))
    { b with start := { s with image := image, bootReq := if done then none else s.bootReq } }
  | _ => b

def execBootData (f : Nat) (s : State) := onBlock (bootData f) s

/-! ## Stash flits (R246) -/

/-- A running stash Furl job names the port and the Region. -/
def stashJob (b : Block) (u : Nat) : Option CodRun :=
  match (getCodec b u).run with
  | some r => if r.job.stash && r.ending.isNone && unitRuns b u then some r else none
  | none => none

/-- The head of a stash message becomes the one being taken. -/
def stashHead (b : Block) (f : Nat) (x : RxFlit) : Block :=
  let h := (x.grans.headD (0, false)).1.toNat
  updPort b f (fun p => returnCredit { p with
    held := p.held.erase x
    cur := if mhLen h = 0 then p.cur else Table.add p.cur 1 ⟨x.seq, false, 0, mhRegion h, mhOff h, mhLen h, false⟩ } 1)

/-- R246: the job takes the port's next stash flit that names its Region, when it is in sequence. -/
def stashFlitTake (u : Nat) (b : Block) : Block :=
  match stashJob b u with
  | none => b
  | some r =>
    if codecBarred b u then codecLost b u
    else
    let f := epPort r.job.src
    let p := getPort b f
    let got := r.taken + r.inbuf.length
    let want := epFabOff r.job.src + got
    match p.held.find? (fun x => x.cls == 1) with
    | none => b
    | some x =>
      if r.job.inBytes ≤ got then b
      else if x.head then
        let h := (x.grans.headD (0, false)).1.toNat
        if messageBad b f 1 x.grans || mhRegion h != epPeerRegion r.job.src || (Table.find p.cur 1).isSome then b
        else if mhOff h != want then updRun b u (fun r => { r with ending := some 0x60D })
        else stashHead b f x
      else match Table.find p.cur 1 with
        | none => b
        | some m =>
          if m.discard || m.region != epPeerRegion r.job.src then b
          else if m.off != want then updRun b u (fun r => { r with ending := some 0x60D })
          else
            let n := min m.left 16
            let data : Marked := (x.grans.take n).flatMap (fun g => (granuleBytes g.1).map (fun y => (y, g.2)))
            let b := putPort b f (returnCredit { p with
              held := p.held.erase x
              cur := if m.left ≤ 16 then Table.erase p.cur 1
                else Table.add p.cur 1 { m with off := m.off + 256, left := m.left - 16 } } 1)
            let v := moveBytes b (.edge (portHalf f)) (unitPlace u) data
            updRun v.2 u (fun r => { r with inbuf := (r.inbuf ++ v.1).take (r.job.inBytes - r.taken) })

def execStashFlitTake (u : Nat) (s : State) := onBlock (clockedStep (stashFlitTake u)) s

/-! ## Sending (R317, R320 to R322) -/

/-- R317: a credit-return bit. -/
def fabricCreditReturn (f c : Nat) (b : Block) : Block :=
  let p := getPort b f
  if 64 ≤ f ∨ 4 ≤ c ∨ p.state ≠ 1 then b
  else if 32 ≤ p.credits.getD c 0 then resetPort (portEvent b f 0x503) f
  else putPort b f { p with credits := setAt p.credits c (p.credits.getD c 0 + 1) }

def execFabricCreditReturn (f c : Nat) (s : State) := onBlock (fabricCreditReturn f c) s

/-- TTE of a message and its place in the order of R211: kind, then index. -/
def msgRank (b : Block) (o : TxOwner) : Nat × Nat × Nat :=
  match o with
  | .stream sid => ((getStream b sid).tte, 0, sid)
  | .codec u _ => (((getCodec b u).run.map (fun r => 2 ^ r.job.dline - 1)).getD 0, 1, u)
  | .drain e => (0, 4, e)
  | .boot => (0, 5, 0)

/-- One rank goes before another. -/
def rankBefore (x y : Nat × Nat × Nat) : Bool :=
  decide (x.1 < y.1) || (x.1 == y.1 && (decide (x.2.1 < y.2.1) || (x.2.1 == y.2.1 && decide (x.2.2 < y.2.2))))

/-- The best of the messages, by place: those that no earlier message of the same owner precedes. -/
def bestMsg (b : Block) : List TxMsg → List (TxMsg × Nat) → Option (TxMsg × Nat)
  | _, [] => none
  | before, (m, i) :: r =>
    let t := bestMsg b (before ++ [m]) r
    if before.any (fun k => k.owner == m.owner) then t
    else match t with
      | none => some (m, i)
      | some q => if rankBefore (msgRank b q.1.owner) (msgRank b m.owner) then some q else some (m, i)

/-- Granules that the next body flit of a message carries. -/
def bodyCount (m : TxMsg) : Nat := min 16 (m.len - 16 * m.flits)

/-- The message of a class that would send next, when it has a flit ready: the message and its place. -/
def readyMsg (b : Block) (p : Port) (c : Nat) : Option (TxMsg × Nat) :=
  if p.credits.getD c 0 = 0 then none
  else
    let q := (txQueue p c).zipIdx
    match q.find? (fun m => m.1.headSent) with
    | some m => if bodyCount m.1 ≤ m.1.data.length then some m else none
    | none => bestMsg b [] q

/-- The class with the best ready message; a class that has waited 1,023 grants goes first (R212). -/
def pickClass (b : Block) (f : Nat) (p : Port) : Option (Nat × TxMsg × Nat) :=
  let ready := (List.range 4).filterMap (fun c => (readyMsg b p c).map (fun m => (c, m.1, m.2)))
  let t := Table.get [] b.arbiters (0x10000 + f)
  match ready.find? (fun r => decide (1023 ≤ Table.get 0 t r.1)) with
  | some r => some r
  | none => ready.foldl (fun best r =>
      match best with
      | none => some r
      | some q => if rankBefore (msgRank b r.2.1.owner) (msgRank b q.2.1.owner) then some r else some q) none

/-- The arbiter's counts after a grant to a class. -/
def countGrant (b : Block) (f : Nat) (p : Port) (won : Nat) : Block :=
  let t := (List.range 4).foldl (fun t c =>
    if c = won then Table.put 0 t c 0
    else if (readyMsg b p c).isSome then Table.put 0 t c (min 1023 (Table.get 0 t c + 1)) else t)
    (Table.get [] b.arbiters (0x10000 + f))
  { b with arbiters := Table.put [] b.arbiters (0x10000 + f) t }

/-- Bytes of a message have left the port (R204, R190). -/
def outputMet (b : Block) (o : TxOwner) (n : Nat) : Block :=
  match o with
  | .stream sid => streamMet b sid n
  | .codec u _ => codecMet b u n
  | _ => b

/-- A flit is driven. -/
def drivePort (p : Port) (c : Nat) (l : List (Granule × Bool)) : Port :=
  { p with txFlit := fabFlit l, txValid := true, txCls := c, flitsTx := p.flitsTx + 1
           credits := setAt p.credits c (p.credits.getD c 0 - 1) }

/-- R322: in a fabric cycle the port sends one flit, or none. -/
def fabricFlitSend (f : Nat) (b : Block) : Block :=
  let p := getPort b f
  if 64 ≤ f ∨ p.state ≠ 1 then b
  else match pickClass b f p with
    | none => putPort b f { p with txFlit := 0, txValid := false, txCls := 0 }
    | some (c, m, i) =>
      let b := countGrant b f p c
      let q := txQueue p c
      if !m.headSent then
        let h := BitVec.ofNat 128 (msgHeader m.op m.region m.off m.len)
        let q := if m.len = 0 ∨ m.op = 9 then dropAt q i else setAt q i { m with headSent := true }
        putPort b f (drivePort (setTxQueue p c q) c [(h, false), (h, false)])
      else
        let n := bodyCount m
        let q := if m.len ≤ 16 * m.flits + n then dropAt q i
          else setAt q i { m with data := m.data.drop n, flits := m.flits + 1 }
        outputMet (putPort b f (drivePort (setTxQueue p c q) c (m.data.take n))) m.owner (16 * n)

def execFabricFlitSend (f : Nat) (s : State) := onBlock (fabricFlitSend f) s

/-- R321: the message in progress of a class whose source has ended is completed with poisoned zeros. -/
def padMessage (f c : Nat) (b : Block) : Block :=
  let p := getPort b f
  if p.state ≠ 1 then b
  else
    let q := txQueue p c
    match q.zipIdx.find? (fun m => m.1.headSent && m.1.closed && decide (m.1.supplied < m.1.len)) with
    | none => b
    | some (m, i) =>
      let m' := { m with data := m.data ++ List.replicate (m.len - m.supplied) (0, true) }
      portOnce (putPort b f { setTxQueue p c (setAt q i m') with padded := satAdd 16 p.padded 1 }) f 0x506

def execPadded (f c : Nat) (s : State) := onBlock (padMessage f c) s

end Sys2Proof.Machine
end

