-- ==== Sys2Proof/Machine/Seam.lean ====
section
/-! DEFINITION. The seam: beats, correction counts, qualification and retirement of channels (R19 to R22, R344, R345,
R358). Transfers between Currents act on Lee directly; a beat shows what the seam does to the granules it is given. -/

namespace Sys2Proof.Machine

/-- A channel before start stage S5 (R22). -/
def SeamCh.fresh : SeamCh := ⟨3, 0, 0, 0, 0, 0, false, false⟩

def getCh (b : Block) (s : Nat) : SeamCh := Table.get SeamCh.fresh b.seam.chans s

def putCh (b : Block) (s : Nat) (x : SeamCh) : Block :=
  { b with seam := { b.seam with chans := Table.put SeamCh.fresh b.seam.chans s x } }

/-- SEAM.CH_STATE_s.STATE: S32 and S33 read untrained while STRAP_SPARES is 0, a retired one too (R20, R22). -/
def seamState (b : Block) (s : Nat) : Nat :=
  if 32 ≤ s ∧ b.start.straps.spares = false then 3 else (getCh b s).state

/-- Physical channels in a state, ascending. -/
def chansIn (b : Block) (st : Nat) : List Nat := (List.range 34).filter (fun s => (getCh b s).state == st)

/-- SEAM.WIDTH.ACTIVE and SEAM_WIDTH (R22, R57). -/
def seamWidth (b : Block) : Nat :=
  if b.seam.trained && !inCalm b then (chansIn b 1).length else 0

/-- The source of an event of a channel in a direction (R349). -/
def seamSource (east : Bool) (s : Nat) : Nat := 0x8000 + s + 0x100 * b2n east

/-- A channel qualifies: it is to be retired, or with AUTO at 0 reports it once per window (R344). -/
def qualifyCh (b : Block) (east : Bool) (s : Nat) : Block :=
  let x := getCh b s
  if x.state ≠ 1 then b
  else if b.seam.auto then putCh b s { x with qualified := true }
  else if x.noted then b
  else report (putCh b s { x with noted := true }) (seamSource east s) 0x483 0

/-- The channel's counts have passed their limits. -/
def overLimit (b : Block) (x : SeamCh) : Bool :=
  decide (b.seam.corrLimit < x.winWest) || decide (b.seam.corrLimit < x.winEast) ||
    decide (max 1 b.seam.uncLimit ≤ x.winUnc)

/-- One granule that a channel's receiver takes: corrected and counted, or poisoned in place (R338). -/
def seamGran (b : Block) (east : Bool) (s : Nat) (w : Stored) : (Granule × Bool) × Block :=
  let x := getCh b s
  match decodeGranule w with
  | (d, .clean) => ((d, false), b)
  | (d, .poisoned) => ((d, true), b)
  | (d, .corrected) =>
    ((d, false), putCh b s { x with
      corr := satAdd 16 x.corr 1
      winWest := if east then x.winWest else x.winWest + 1
      winEast := if east then x.winEast + 1 else x.winEast })
  | (d, .uncorrectable) =>
    let b := putCh b s { x with winUnc := x.winUnc + 1 }
    let b := { b with seam := { b.seam with uncorr := satAdd 16 b.seam.uncorr 1 } }
    ((d, true), report b (seamSource east s) 0x481 0)

/-- The granules of a channel's part, in order. -/
def seamPart (east : Bool) (s : Nat) : List Stored → Block → List (Granule × Bool) × Block
  | [], b => ([], b)
  | w :: r, b =>
    let g := seamGran b east s w
    let t := seamPart east s r g.2
    (g.1 :: t.1, t.2)

/-- The first eight of the words that have arrived on a channel: its part of the beat. -/
def partWords (words : List (Nat × BitVec 144)) (s : Nat) : List Stored :=
  ((words.filter (fun w => w.1 == s)).map (·.2)).take 8

/-- A channel's part of the beat has arrived. -/
def partHere (words : List (Nat × BitVec 144)) (s : Nat) : Bool := decide (8 ≤ words.countP (fun w => w.1 == s))

/-- The words that stay once a beat has taken up to eight of every channel; the list of numbers holds how many are still to
be taken of each. -/
def afterBeat (took : Table Nat) : List (Nat × BitVec 144) → List (Nat × BitVec 144)
  | [] => []
  | w :: r =>
    let n := Table.get 0 took w.1
    if n < 8 then afterBeat (Table.put 0 took w.1 (n + 1)) r else w :: afterBeat took r

/-- A channel put in its place among channels by logical index. -/
def chanInsert (b : Block) (c : Nat) : List Nat → List Nat
  | [] => [c]
  | x :: r => if (getCh b c).logical ≤ (getCh b x).logical then c :: x :: r else x :: chanInsert b c r

/-- The active channels by logical index. -/
def beatChans (b : Block) : List Nat := (chansIn b 1).foldr (chanInsert b) []

/-- A poisoned granule of unstated data. -/
def poisonGran (b : Block) : (Granule × Bool) × Block :=
  let v := takeFree b
  let w := takeFree v.2
  ((v.1 ++ w.1, true), w.2)

/-- n poisoned granules. -/
def poisonGrans : Nat → Block → List (Granule × Bool) × Block
  | 0, b => ([], b)
  | n + 1, b =>
    let g := poisonGran b
    let t := poisonGrans n g.2
    (g.1 :: t.1, t.2)

/-- The part of a beat that a channel delivers: poisoned granules where it is missing (R344). -/
def partOf (east : Bool) (words : List (Nat × BitVec 144)) (s : Nat) (b : Block) : List (Granule × Bool) × Block :=
  if partHere words s then seamPart east s (partWords words s) b else poisonGrans 8 b

/-- The parts of a beat, channel by channel. -/
def seamParts (east : Bool) (words : List (Nat × BitVec 144)) : List Nat → Block → List (Granule × Bool) × Block
  | [], b => ([], b)
  | s :: r, b =>
    let p := partOf east words s b
    let b := if overLimit p.2 (getCh p.2 s) then qualifyCh p.2 east s else p.2
    let t := seamParts east words r b
    (p.1 ++ t.1, t.2)

/-- The words that have arrived and that no beat has taken, and the beat released last, of a direction. -/
def arrivedOf (b : Block) (east : Bool) : List (Nat × BitVec 144) := if east then b.seam.inEast else b.seam.inWest

def setArrived (b : Block) (east : Bool) (l : List (Nat × BitVec 144)) : Block :=
  { b with seam := if east then { b.seam with inEast := l } else { b.seam with inWest := l } }

def setBeat (b : Block) (east : Bool) (l : List (Granule × Bool)) : Block :=
  { b with seam := if east then { b.seam with outEast := l } else { b.seam with outWest := l } }

/-- A beat is released. -/
def releaseBeat (east : Bool) (b : Block) : Block :=
  let words := arrivedOf b east
  let p := seamParts east words (beatChans b) b
  setArrived (setBeat p.2 east p.1) east (afterBeat [] words)

/-- R19: words arrive on active channels, in order on each; the beat is released once every active channel has delivered
its part. -/
def seamBeat (east : Bool) (words : List (Nat × BitVec 144)) (b : Block) : Block :=
  if seamWidth b = 0 then b
  else
    let b := setArrived b east (arrivedOf b east ++ words.filter (fun w => (beatChans b).contains w.1))
    if (beatChans b).all (partHere (arrivedOf b east)) then releaseBeat east b else b

def execSeamBeatRelease (east : Bool) (words : List (Nat × BitVec 144)) (s : State) := onBlock (seamBeat east words) s

/-- R344: 64 port cycles after the first part of a beat, the part of a channel is still missing: the beat is completed with
poisoned granules in the place of every missing part and released; those channels are retired whatever AUTO holds. -/
def beatPartMissing (east : Bool) (s : Nat) (b : Block) : Block :=
  let words := arrivedOf b east
  if (getCh b s).state ≠ 1 ∨ seamWidth b = 0 ∨ words = [] ∨ partHere words s = true then b
  else
    let gone := (beatChans b).filter (fun c => !partHere words c)
    gone.foldl (fun b c => putCh b c { getCh b c with qualified := true }) (releaseBeat east b)

def execBeatPartMissing (east : Bool) (s : Nat) (st : State) := onBlock (beatPartMissing east s) st

/-- R344: the error window restarts. -/
def seamWindow (b : Block) : Block :=
  { b with seam := { b.seam with chans := Table.mapAll SeamCh.fresh b.seam.chans (fun x =>
      { x with winWest := 0, winEast := 0, winUnc := 0, noted := false }) } }

def execSeamWindow (s : State) := onBlock seamWindow s

/-! ## Retirement (R20, R345) -/

/-- Active channels renumbered in ascending physical order. -/
def renumber (b : Block) : List Nat → Nat → Block
  | [], _ => b
  | s :: r, i => renumber (putCh b s { getCh b s with logical := i }) r (i + 1)

/-- The map of R20 after a channel is retired. -/
def retireMap (b : Block) (s : Nat) : Block :=
  let l := (getCh b s).logical
  let b := putCh b s { getCh b s with state := 2, qualified := false }
  match chansIn b 0 with
  | i :: _ => putCh b i { getCh b i with state := 1, logical := l }
  | [] => renumber b (chansIn b 1) 0

/-- A DRAIN of an Eddy to a port of the other half. -/
def drainCrosses (e : Nat) (x : Eddy) : Bool :=
  x.matOps.any (fun m => match m.2 with
    | .drain o => o.toPort && portHalf o.port != curHalf (e / 16)
    | _ => false)

/-- A DRAIN that must cross ends its Task. -/
def drainLost (b : Block) (e : Nat) : Block := taskFault b e (getEddy b e).pc seamLost

/-- R21: with no active channel, every transfer in progress that must cross ends, and its job stops. -/
def seamStop (b : Block) : Block :=
  if !seamDown b then b
  else
    let b := ((b.eddies.filter (fun p => p.2.run == .running && drainCrosses p.1 p.2)).map (·.1)).foldl drainLost b
    let b := ((b.streams.filter (fun p => p.2.active.any (streamCrosses b (p.1 / 256) p.2))).map (·.1)).foldl crossingEnds b
    ((b.codecs.map (·.1)).filter (codecBarred b)).foldl codecLost b

/-- R345: a qualified channel is retired in both directions; the seam of Calm mode is powered off (R377). -/
def seamRetired (s : Nat) (b : Block) : Block :=
  if (getCh b s).state ≠ 1 ∨ (getCh b s).qualified = false ∨ inCalm b = true then b
  else
    let b := retireMap b s
    let d := BitVec.ofNat 128 (s + seamWidth b * 256)
    seamStop (bumpRecord (report (report b (seamSource false s) 0x482 d) (seamSource true s) 0x482 d))

def execSeamRetired (s : Nat) (st : State) := onBlock (seamRetired s) st

/-- R358: SEAM.CMD.RETIRE of an active channel; nothing is active in Calm mode (R377). -/
def seamCmdRetire (s : Nat) (b : Block) : Block :=
  if (getCh b s).state = 1 ∧ inCalm b = false then putCh b s { getCh b s with qualified := true } else b

def execSeamCmdRetire (s : Nat) (st : State) := onBlock (seamCmdRetire s) st

/-- R22, R358: CLR_COUNTS. -/
def seamClr (b : Block) : Block :=
  { b with seam := { b.seam with
      uncorr := 0
      chans := Table.mapAll SeamCh.fresh b.seam.chans (fun x => { x with corr := 0 }) } }

def execSeamCtrlClrCounts (s : State) := onBlock seamClr s

end Sys2Proof.Machine
end

