-- ==== Sys2Proof/Machine/Caps.lean ====
section
/-! DEFINITION. The capability record (R57 to R59), computed from the state it reports. -/

namespace Sys2Proof.Machine

/-- A number whose bits are the values of a test at 0, 1, 2, … below n. -/
def maskOf (n : Nat) (p : Nat → Bool) : Nat := ((List.range n).map (fun i => b2n (p i) * 2 ^ i)).sum

/-- An Eddy is usable: its Current is enabled, and neither S3 nor S4 found it unusable (R57, R373). -/
def eddyUsable (b : Block) (e : Nat) : Bool := curEnabled b (e / 16) && !b.start.badEddies.contains e

/-- Logical indices of an Eddy that map to a physical Vane (R346). -/
def vanesMapped (x : Eddy) : List Nat := (List.range 8).filter (fun v => fld x.vaneMap.toNat (4 * v + 3) (4 * v) != 15)

/-- V8 maps to a logical index. -/
def spareVaneUsed (x : Eddy) : Bool := (List.range 8).any (fun v => fld x.vaneMap.toNat (4 * v + 3) (4 * v) == 8)

/-- VANES[i]. -/
def vanesByte (b : Block) (e : Nat) : Nat :=
  if curEnabled b (e / 16) then
    (vanesMapped (getEddy b e)).length + 128 * b2n (spareVaneUsed (getEddy b e))
  else 0

/-- LEE_BYTES[n]: 256 KiB for each bank in service; 0 while the Current is Gated (R230, R397). -/
def leeBytesOf (b : Block) (n : Nat) : Nat :=
  if curUsable b n then ((List.range 16).map (fun e => bankCount b (16 * n + e) * 0x40000)).sum else 0

/-- The spare lane is active (R301, R307): the lane beyond the sixteen of a link without faults. -/
def spareLaneUsed (k : Link) : Bool := (getLane k 16).state == 0

/-- LANES[l] of a link that is up. -/
def lanesByte (b : Block) (l : Nat) : Nat :=
  if linkUp b l then activeLanes (getLink b l) + 128 * b2n (spareLaneUsed (getLink b l)) else 0

/-- The fabric clock that STRAP_FABCLK declares (R327). -/
def fabricMhz (c : Nat) : Nat := if c ≤ 5 then 1000 + 250 * c else 1000

/-- SEAM_SPARES: idle spares left (R20, R57). -/
def seamSpares (b : Block) : Nat :=
  if b.start.straps.spares && b.seam.trained && !inCalm b then (chansIn b 0).length else 0

/-- Currents that are enabled. -/
def enabledCount (b : Block) : Nat := (List.range 8).countP (curEnabled b)

/-- Links that are populated. -/
def presentCount (b : Block) : Nat := (List.range 24).countP (linkPresent b)

/-- R57: the 256 bytes of the record. -/
def capsRecord (b : Block) : List Byte :=
  leBytes 4 0x00020000 ++ leBytes 2 2 ++ leBytes 2 256 ++ leBytes 4 b.host.updateSeq.toNat ++
  leBytes 2 (maskOf 8 (curUsable b)) ++ leBytes 2 ((List.range 128).countP (eddyUsable b)) ++
  leBytes 16 (maskOf 128 (eddyUsable b)) ++
  ((List.range 128).flatMap (fun e => leBytes 1 (vanesByte b e))) ++
  ((List.range 8).flatMap (fun n => leBytes 4 (leeBytesOf b n))) ++
  leBytes 4 (maskOf 24 (linkUp b)) ++
  ((List.range 24).flatMap (fun l => leBytes 1 (lanesByte b l))) ++
  leBytes 2 64 ++ leBytes 2 16384 ++ leBytes 8 (maskOf 64 (portUp b)) ++
  leBytes 1 (seamWidth b) ++ leBytes 1 (seamSpares b) ++ leBytes 2 0 ++
  leBytes 2 (presentCount b + 4 * enabledCount b) ++ leBytes 2 (presentCount b + 2 * enabledCount b) ++
  leBytes 2 b.power.galeMax ++ leBytes 2 b.start.portRun ++ leBytes 2 (fabricMhz b.start.straps.fabclk) ++
  leBytes 2 256 ++ leBytes 2 8192 ++ leBytes 2 4095 ++ leBytes 2 1024 ++ leBytes 2 16

end Sys2Proof.Machine
end

