-- ==== Sys2Proof/Machine/Rings.lean ====
section
/-! DEFINITION. Command rings, doorbells, the mailbox, taking commands and writing completions, and the Lee window (R425
to R434). -/

namespace Sys2Proof.Machine

/-! ## Rings (R426 to R429) -/

/-- Entries of a ring. -/
def Ring.entries (x : Ring) : Nat := 2 ^ x.log2

/-- Unread completions. -/
def Ring.unread (x : Ring) : Nat := (x.cplTail + 2 ^ 16 - x.cplHead) % 2 ^ 16

/-- A Region that commands can name: allocated, not being freed, in a usable Current. -/
def namedRegion (b : Block) (id : Nat) : Option Region :=
  match getRegion b id with
  | none => none
  | some r =>
    match r.zero with
    | .free _ => none
    | _ => if curUsable b r.cur then some r else none

/-- A Region can serve a ring: persistent, PLAIN, and large enough. -/
def ringRegion (b : Block) (id bytes : Nat) : Bool :=
  (namedRegion b id).any (fun g => g.persistent && g.kind == .plain && decide (bytes ≤ g.size))

/-- Another enabled ring names a Region. -/
def ringNames (b : Block) (r id : Nat) : Bool :=
  b.host.rings.any (fun p => p.1 != r && p.2.en && (p.2.cmdRegion == id || p.2.cplRegion == id))

/-- The conditions of R426. -/
def ringOk (b : Block) (r : Nat) (x : Ring) : Bool :=
  ringRegion b x.cmdRegion (64 * x.entries) && ringRegion b x.cplRegion (32 * x.entries) &&
    !ringNames b r x.cmdRegion && !ringNames b r x.cplRegion && x.cmdRegion != x.cplRegion

/-- Disabling a ring: nothing more is taken from it or written to it. -/
def ringDisable (b : Block) (r : Nat) : Block :=
  let b := putRing b r { getRing b r with en := false }
  { b with host := { b.host with
    cpls := b.host.cpls.filter (fun c => c.dest != r)
    running := b.host.running.map (fun p => if p.1 = r then (p.1, { p.2 with silent := true }) else p) } }

/-- R426: a write of DSP.RING_r_CFG. -/
def ringCfg (r : Nat) (v : Word) (b : Block) : Block :=
  if 64 ≤ r then b
  else
    let x := getRing b r
    let en := bit v.toNat 31
    if x.en then (if en then b else ringDisable b r)
    else
      let y := { x with
        irq := fld v.toNat 30 28
        log2 := max 4 (min 12 (fld v.toNat 27 24))
        cmdRegion := fld v.toNat 23 12
        cplRegion := fld v.toNat 11 0 }
      if !en then putRing b r y
      else if ringOk b r y then
        putRing b r { y with
          en := true, cmdHead := 0, cmdTail := 0, cplHead := 0, cplTail := 0, stopped := false, err := 0 }
      else putRing b r { y with err := 0x839 }

def execRingCfgEn (r : Nat) (v : BitVec 32) (s : State) := onBlock (ringCfg r v) s

/-- R427: a write of DSP.DB_r. -/
def doorbell (r : Nat) (tail : BitVec 16) (b : Block) : Block :=
  let x := getRing b r
  if 64 ≤ r || !x.en || x.stopped then b
  else if x.entries < (tail.toNat + 2 ^ 16 - x.cmdHead) % 2 ^ 16 then putRing b r { x with stopped := true, err := 0x83A }
  else putRing b r { x with cmdTail := tail.toNat }

def execDoorbell (r : Nat) (tail : BitVec 16) (s : State) := onBlock (doorbell r tail) s

/-- R428: a host write of CPL_HEAD. -/
def cplHeadWrite (r : Nat) (v : BitVec 16) (b : Block) : Block :=
  let x := getRing b r
  if 64 ≤ r || x.unread < (v.toNat + 2 ^ 16 - x.cplHead) % 2 ^ 16 then b
  else putRing b r { x with cplHead := v.toNat }

def execCplHeadWrite (r : Nat) (v : BitVec 16) (s : State) := onBlock (cplHeadWrite r v) s

/-- DSP.IRQ.PEND: the lines with unread completions (R429). -/
def irqPend (b : Block) : Nat :=
  ((List.range 8).map (fun k =>
    b2n (b.host.rings.any (fun p => p.2.en && p.2.irq == k && p.2.unread != 0)) * 2 ^ k)).sum

/-- MGT_IRQ: the lines that are pending and not masked (R429); low while a reset is low (R367). -/
def mgtIrq (b : Block) : Nat := if b.start.phase = .reset then 0 else irqPend b &&& b.host.irqMask

/-! ## Mailbox (R433) -/

/-- The command entry that MBOX_0 to MBOX_15 spell. -/
def mboxEntry (b : Block) : BitVec 512 :=
  BitVec.ofNat 512 (b.host.mbox.toList.foldr (fun w n => w.toNat + 2 ^ 32 * n) 0)

/-- R433: GO submits the mailbox. -/
def mboxGo (b : Block) : Block :=
  if b.host.mboxBusy then b
  else { b with host := { b.host with mboxGo := some (mboxEntry b), mboxBusy := true } }

def execMboxGo (s : State) := onBlock mboxGo s

/-! ## Taking a command (R428, R430, R432) -/

/-- Windsock serves commands: after S7, or in Calm mode (log 40). -/
def servesCommands (b : Block) : Bool := b.start.phase == .run || b.start.phase == .calm

/-- A ring has a command to take and room for its completion. -/
def ringReady (b : Block) (r : Nat) : Bool :=
  let x := getRing b r
  x.en && !x.stopped && x.cmdHead != x.cmdTail && !b.start.monitor &&
    decide (x.unread + b.host.cpls.countP (fun c => c.dest == r && decide (fld c.entry.toNat 55 48 < 2)) < x.entries) &&
    (namedRegion b x.cmdRegion).any (fun g => leeRuns b g.cur)

/-- A source has a command that Windsock can take. -/
def sourceReady (b : Block) (src : Nat) : Bool :=
  servesCommands b && (Table.find b.host.running src).isNone && decide (b.host.running.length < 8) &&
    (if src < 64 then ringReady b src
     else if src = 64 then b.host.mboxGo.isSome
     else src == 65 && !b.host.mctpCmds.isEmpty && !b.start.monitor)

/-- The source whose turn it is (R430). -/
def nextSource (b : Block) : Option Nat :=
  ((List.range 66).map (fun i => (b.host.lastSrc + 1 + i) % 66)).find? (sourceReady b)

/-- The entry at the head of a ring. -/
def ringEntry (b : Block) (r : Nat) : BitVec 512 × Block :=
  let x := getRing b r
  match namedRegion b x.cmdRegion with
  | none => (0, b)
  | some g =>
    let d := leeBytesAt b (regionAddr g + 64 * (x.cmdHead % x.entries)) 64
    (BitVec.ofNat 512 (markedNat d.1).1, putRing d.2 r { x with cmdHead := (x.cmdHead + 1) % 2 ^ 16 })

/-- The next entry of a source, and the block without it. -/
def takeEntry (b : Block) (src : Nat) : BitVec 512 × Block :=
  if src < 64 then ringEntry b src
  else if src = 64 then (b.host.mboxGo.getD 0, { b with host := { b.host with mboxGo := none } })
  else (b.host.mctpCmds.headD 0, { b with host := { b.host with mctpCmds := b.host.mctpCmds.drop 1 } })

/-- The OPCODEs of R432. -/
def knownOpcode (n : Nat) : Bool := (decide (1 ≤ n) && decide (n ≤ 0xC)) || (decide (0x10 ≤ n) && decide (n ≤ 0x1D))

/-- R430: Windsock takes the next command of a source; an unknown OPCODE, or a reserved byte that is not 0, is refused
at once. -/
def commandTake (src : Nat) (b : Block) : Block :=
  if nextSource b ≠ some src then b
  else
    let t := takeEntry b src
    let b := { t.2 with host := { t.2.host with
      running := Table.add t.2.host.running src ⟨t.1, false, t.2.host.taken, false⟩
      taken := t.2.host.taken + 1
      lastSrc := src } }
    if !knownOpcode (cmdOpcode t.1) then finishCmd b src 0x837 0 0
    else if fld t.1.toNat 31 16 ≠ 0 then finishCmd b src 0x838 0 0
    else b

def execCommandTake (src : Nat) (s : State) := onBlock (commandTake src) s

/-! ## Writing a completion (R428, R433) -/

/-- The first completion for a destination that a test picks, and the list without it. -/
def takeCpl (p : Cpl → Bool) : List Cpl → Option (Cpl × List Cpl)
  | [] => none
  | c :: r => if p c then some (c, r) else (takeCpl p r).map (fun t => (t.1, c :: t.2))

/-- KIND of a completion entry. -/
def cplKind (c : Cpl) : Nat := fld c.entry.toNat 55 48

/-- An event or fault entry that is not written is counted. -/
def dropCpl (b : Block) (c : Cpl) : Block :=
  if 2 ≤ cplKind c then { b with host := { b.host with dropped := satAdd 16 b.host.dropped 1 } } else b

/-- Thirty-two bytes written by Windsock. -/
def leePut32 (b : Block) (a : Nat) (e : BitVec 256) : Block :=
  let l := leePut b.lee (a / 16) (BitVec.ofNat 128 e.toNat) false
  { b with lee := leePut l (a / 16 + 1) (BitVec.ofNat 128 (e.toNat >>> 128)) false }

/-- The next completion of a ring: written while a slot is free; with none free, the first event or fault entry is not
written and the others wait. -/
def ringComplete (b : Block) (r : Nat) : Block :=
  let x := getRing b r
  match takeCpl (fun c => c.dest == r) b.host.cpls with
  | none => b
  | some (c, rest) =>
    match if x.en then namedRegion b x.cplRegion else none with
    | none => dropCpl { b with host := { b.host with cpls := rest } } c
    | some g =>
      if x.unread < x.entries then
        (if leeRuns b g.cur then
          leePut32 (putRing { b with host := { b.host with cpls := rest } } r
            { x with cplTail := (x.cplTail + 1) % 2 ^ 16 }) (regionAddr g + 32 * (x.cplTail % x.entries)) c.entry
         else b)
      else match takeCpl (fun c => c.dest == r && decide (2 ≤ cplKind c)) b.host.cpls with
        | none => b
        | some (c, rest) => dropCpl { b with host := { b.host with cpls := rest } } c

/-- The eight words of a completion entry. -/
def cplWords (e : BitVec 256) : Vector Word 8 := Vector.ofFn (fun i => BitVec.ofNat 32 (e.toNat >>> (32 * i.val)))

/-- A message of the block for the I3C controller, and the in-band interrupt that announces it (R438). -/
def mctpReply (b : Block) (m : List Byte) : Block :=
  { b with host := { b.host with mctpOut := b.host.mctpOut ++ [m], ibi := true } }

/-- The head of a vendor-defined message: type 0x7F and Eutric's enterprise number, most significant byte first (R438,
log 45). -/
def vendorHead : List Byte := 0x7F :: (leBytes 4 Config.eutricPen.toNat).reverse

/-- R428, R433, R438: Windsock writes the next completion for a ring, for the mailbox or for MCTP. -/
def completionWrite (r : Nat) (b : Block) : Block :=
  if r < 64 then ringComplete b r
  else
    match takeCpl (fun c => c.dest == r) b.host.cpls with
    | none => b
    | some (c, rest) =>
      let b := { b with host := { b.host with cpls := rest } }
      if r = 64 then { b with host := { b.host with mboxRes := cplWords c.entry, mboxBusy := false } }
      else mctpReply b (vendorHead ++ leBytes 32 c.entry.toNat)

def execCompletionWrite (r : Nat) (s : State) := onBlock (completionWrite r) s

/-! ## The Lee window (R434) -/

/-- The answer to a management-port access (R425). -/
def answer (b : Block) (err : Bool) (data : Nat) : Block :=
  { b with host := { b.host with ack := true, err := err, rdata := BitVec.ofNat 32 data } }

/-- R434: an access to DSP.LEE_DATA. -/
def leeData (we : Bool) (v : Word) (b : Block) : Block :=
  if b.power.hold then b
  else match namedRegion b b.host.leeRegion with
    | none => answer b true 0
    | some r =>
      if r.kind = .stash || r.size ≤ b.host.leeOff || (we && r.kind == .reduce && decide (b.host.leeOff < 64)) then
        answer b true 0
      else
        let a := regionAddr r + b.host.leeOff
        let d := leeBytesAt b a 4
        let w := if we then
            { leeMerge b r.cur (a / 16) (a % 16) ((leBytes 4 v.toNat).map (fun x => (x, false))) with
              currents := b.currents }
          else d.2
        answer { w with host := { w.host with leeOff := (w.host.leeOff + 4) % 2 ^ 31 } } false
          (if we then 0 else (markedNat d.1).1)

def execLeeData (we : Bool) (v : BitVec 32) (s : State) := onBlock (leeData we v) s

end Sys2Proof.Machine
end

