-- ==== Sys2Proof/Machine/Commands.lean ====
section
/-! DEFINITION. What the commands of R432 have in common, and those of the Regions, streams, Gates, codecs, ranges and
contexts. -/

namespace Sys2Proof.Machine

/-! ## Arguments (R432) -/

/-- The bits of a Lee endpoint that may be set, its kind among them. -/
def epMask : Nat := 0xFFFF00007FFFFFFF

/-- All bits of an argument word. -/
def fullMask : Nat := 2 ^ 64 - 1

/-- The bits of A0, A1, … that a command gives a meaning; every other bit is reserved. -/
def argMasks (op : Nat) : List Nat :=
  match op with
  | 0x01 => [epMask]
  | 0x02 => [0xFF0137, fullMask, 0xFFFF]
  | 0x03 => [0xFFF]
  | 0x04 => [0xFFF, fullMask, fullMask]
  | 0x05 => [0xFFF, 0xFFFFFFFF0000FFFF]
  | 0x06 => [0x7FF, epMask, fullMask]
  | 0x07 => [0x7FF, epMask, fullMask]
  | 0x08 => [0x7FF]
  | 0x09 => [0x7FF]
  | 0x0A => [0xFFFF1FFF]
  | 0x0B => [0x3F07, epMask]
  | 0x0C => [0x3F07, epMask]
  | 0x10 => [epMask, epMask, 0xFFFFFFFF]
  | 0x11 => [0xFFFFFFFF]
  | 0x12 => [0xFF, epMask]
  | 0x13 => [0xFF]
  | 0x14 => [0xFF0F]
  | 0x15 => [0x11F, 0xFFFFFFFF, fullMask, fullMask, fullMask, fullMask, fullMask]
  | 0x16 => [0x3FF]
  | 0x17 => [0x107]
  | 0x18 => [0x107]
  | 0x19 => [0x1, epMask]
  | 0x1A => [0, epMask]
  | 0x1C => [0x7F]
  | 0x1D => [0x3]
  | _ => []

/-- No reserved bit of an entry's arguments is set. -/
def argsClean (e : BitVec 512) : Bool :=
  (List.range 7).all (fun k =>
    let m := (argMasks (cmdOpcode e)).getD k 0
    cmdArg e k &&& m == cmdArg e k)

/-- The Region of a Lee endpoint that names n bytes within it, and the address (R189, R432): its kind is 0, its offset a
multiple of 16, and no host access reaches a STASH Region or writes a reduction header. -/
def leeEp (b : Block) (write : Bool) (x n : Nat) : Option (Region × Nat) :=
  if epKind x != 0 || epOff x % 16 != 0 then none
  else match namedRegion b (epRegion x) with
    | none => none
    | some r =>
      if r.size < epOff x + n || r.kind == .stash || (write && r.kind == .reduce && decide (epOff x < 64)) then none
      else some (r, regionAddr r + epOff x)

/-! ## Order among commands (R430) -/

/-- The objects that a command names: their kind and number. Kinds: 0 Region, 1 stream, 2 Gate, 3 range, 4 context, 5
key slot, 6 Current, 7 job. -/
def cmdObjects (e : BitVec 512) : List (Nat × Nat) :=
  let a := cmdArg e 0
  let ep (k : Nat) : Nat × Nat := (0, epRegion (cmdArg e k))
  match cmdOpcode e with
  | 0x01 => [ep 0]
  | 0x02 => [(6, fld a 2 0)]
  | 0x03 => [(0, fld a 11 0)]
  | 0x04 => [(0, fld a 11 0)]
  | 0x05 => [(0, fld a 11 0)]
  | 0x06 => [(1, fld a 10 0), ep 1]
  | 0x07 => [(1, fld a 10 0), ep 1]
  | 0x08 => [(1, fld a 10 0)]
  | 0x09 => [(1, fld a 10 0)]
  | 0x0A => [(2, fld a 12 0)]
  | 0x0B => [(6, fld a 2 0), ep 1]
  | 0x0C => [(6, fld a 2 0), ep 1]
  | 0x10 => [(7, 0), ep 0, ep 1]
  | 0x11 => [(7, 0)]
  | 0x12 => [(3, fld a 7 0), ep 1]
  | 0x13 => [(3, fld a 7 0)]
  | 0x14 => [(4, fld a 3 0)]
  | 0x15 => [(5, fld a 4 0)]
  | 0x17 => [(6, fld a 2 0)]
  | 0x18 => [(6, fld a 2 0)]
  | 0x19 => [ep 1]
  | 0x1A => [ep 1]
  | _ => []

/-- No command that Windsock took earlier and still runs names an object of this one. -/
def inOrder (b : Block) (src : Nat) (c : Cmd) : Bool :=
  b.host.running.all (fun p =>
    p.1 == src || decide (c.order < p.2.order) || (cmdObjects p.2.entry).all (fun o => !(cmdObjects c.entry).contains o))

/-- The command needs Lee, or a stream engine or a Gate, which stand still with it in Hold (R396, R442). -/
def needsLee (e : BitVec 512) : Bool :=
  [0x01, 0x04, 0x05, 0x06, 0x07, 0x08, 0x09, 0x0A, 0x0B, 0x0C, 0x10, 0x12, 0x19, 0x1A].contains (cmdOpcode e) ||
    (cmdOpcode e == 2 && fld (cmdArg e 0) 5 4 == 1)

/-- Windsock runs the command that it has taken from a source, when that is the given one: not before an earlier command
on the same object has ended, and not in Hold when it needs Lee. A reserved bit refuses it. -/
def command (op : Nat) (f : BitVec 512 → Nat → Block → Block) (src : Nat) (b : Block) : Block :=
  match Table.find b.host.running src with
  | none => b
  | some c =>
    if cmdOpcode c.entry != op || c.started || !inOrder b src c || (needsLee c.entry && b.power.hold) then b
    else if !argsClean c.entry then finishCmd b src 0x838 0 0
    else f c.entry src b

/-! ## The capability record (R57, R432) -/

/-- `caps`: a whole copy of the record. -/
def capsRun (e : BitVec 512) (src : Nat) (b : Block) : Block :=
  match leeEp b true (cmdArg e 0) 256 with
  | none => finishCmd b src 0x838 0 0
  | some (r, a) =>
    let w := leeWriteBytes b r.cur a ((capsRecord b).map (fun x => (x, false)))
    finishCmd { w with currents := b.currents } src 0 0 b.host.updateSeq.toNat

def execCaps (src : Nat) (s : State) := onBlock (command 0x01 capsRun src) s

/-! ## Allocation (R35 to R38, R230) -/

/-- The backed runs of a Current as base and end, ascending; adjoining runs of two Eddies are one. -/
def backedRuns (b : Block) (n : Nat) : List (Nat × Nat) :=
  (List.range 16).foldr (fun e acc =>
    let lo := e * 0xC00000
    let hi := lo + bankCount b (16 * n + e) * 0x40000
    match acc with
    | (l, h) :: r => if l = hi then (lo, h) :: r else if lo = hi then acc else (lo, hi) :: acc
    | [] => if lo = hi then [] else [(lo, hi)]) []

/-- The Regions of a Current as base and end. -/
def takenRuns (b : Block) (n : Nat) : List (Nat × Nat) :=
  (b.lee.regions.filter (fun p => p.2.cur == n)).map (fun p => (p.2.base, p.2.base + p.2.size))

/-- A base holds size bytes of backed Lee that no Region holds. -/
def fitsAt (runs taken : List (Nat × Nat)) (size base : Nat) : Bool :=
  runs.any (fun r => decide (r.1 ≤ base) && decide (base + size ≤ r.2)) &&
    taken.all (fun t => decide (base + size ≤ t.1) || decide (t.2 ≤ base))

/-- The least of some numbers. -/
def leastOf : List Nat → Option Nat
  | [] => none
  | a :: r => match leastOf r with
    | none => some a
    | some c => some (min a c)

/-- The lowest base at which size bytes of a Current are free (log 22). -/
def freeBase (b : Block) (n size : Nat) : Option Nat :=
  let runs := backedRuns b n
  let taken := takenRuns b n
  leastOf ((runs.map (·.1) ++ taken.map (·.2)).filter (fitsAt runs taken size))

/-- The lowest free region ID (R38). -/
def freeId (b : Block) : Option Nat :=
  ((List.range 4095).map (· + 1)).find? (fun i => (getRegion b i).isNone)

/-- A kind of Region by its code (R432). -/
def kindOf (n : Nat) : RegionKind :=
  match n with
  | 0 => .plain
  | 1 => .reduce
  | 2 => .stash
  | _ => .ring

/-- A Region as allocation leaves it. -/
def newRegion (cur base size : Nat) (kind : RegionKind) (persistent : Bool) (tenant : Nat) : Region where
  cur := cur
  base := base
  size := size
  kind := kind
  persistent := persistent
  tenant := tenant
  held := false
  gate := 0
  gcount := 0
  gen := false
  expect := 0
  armReqs := []
  zeroDone := 0
  zero := .none
  waiting := []
  ringW := 0
  ringRd := 0
  ringEnd := false
  once := []

/-- The header of a new REDUCE Region: not ARMED, not COMPLETE, ARMWORD with the expected count (R239). -/
def newHeader (b : Block) (r : Region) (expect : Nat) : Block :=
  if r.kind = .reduce then putHeader (leeZero b (regionAddr r) 64) r 0 expect else b

/-- `region_alloc` (R38). -/
def regionAlloc (e : BitVec 512) (src : Nat) (b : Block) : Block :=
  let a := cmdArg e 0
  let n := fld a 2 0
  let size := cmdArg e 1
  let kind := kindOf (fld a 5 4)
  let count := fld (cmdArg e 2) 15 0
  if !curUsable b n || size % 16 != 0 || decide (size < (if kind = .reduce then 64 else 16)) ||
      decide (leeBytesOf b n < size) then finishCmd b src 0x838 0 0
  else if kind = .reduce && count == 0 then finishCmd b src 0x604 0 0
  else match freeId b, freeBase b n size with
    | none, _ => finishCmd b src 0x603 0 0
    | some _, none => finishCmd b src 0x601 0 0
    | some id, some base =>
      let r := newRegion n base size kind (bit a 8) (if bit a 8 then fld a 23 16 else 0)
      finishCmd (newHeader (putRegion b id r) r count) src 0 0 id

def execRegionAlloc (src : Nat) (s : State) := onBlock (command 0x02 regionAlloc src) s

/-! ## Freeing and zeroing (R38, R242, R413) -/

/-- A Lee endpoint names a Region. -/
def epNames (x id : Nat) : Bool := epKind x == 0 && epRegion x == id

/-- The address lies in a Region. -/
def inRegion (r : Region) (a : Nat) : Bool := decide (regionAddr r ≤ a) && decide (a < regionAddr r + r.size)

/-- A COD job names a Region by an endpoint or by its descriptor. -/
def codNames (r : Region) (id : Nat) (j : CodJob) : Bool :=
  epNames j.src id || (!j.ingress && epNames j.dst id) || (j.paired && (epNames j.ssrc id || epNames j.sdst id)) ||
    inRegion r j.desc

/-- R38: an armed stream, a COD job or an unfinished reduction names the Region, or an enabled ring (R426). -/
def regionBusy (b : Block) (id : Nat) (r : Region) : Bool :=
  b.streams.any (fun p => p.2.armed.any (fun x => epNames x.src id || epNames x.dst id)) ||
    b.codecs.any (fun p => p.2.queue.any (codNames r id) || p.2.run.any (fun k => codNames r id k.job)) ||
    (r.kind == .reduce && (redArmed b r || r.zero == .arm)) || ringNames b 64 id

/-- The zeroization policy in force: 0 none, 1 and 2 as R413 states; 3 reads as 2. -/
def zeroizePolicy (b : Block) : Nat := min 2 b.sec.zeroize

/-- `region_free`. -/
def regionFree (e : BitVec 512) (src : Nat) (b : Block) : Block :=
  let id := fld (cmdArg e 0) 11 0
  match namedRegion b id with
  | none => finishCmd b src 0x838 0 0
  | some r =>
    if regionBusy b id r then finishCmd b src 0x602 0 0
    else if zeroizePolicy b = 0 then finishCmd (dropRegion b id) src 0 0 0
    else startCmd (putRegion b id { r with zero := .free (some src), held := false }) src

def execRegionFree (src : Nat) (s : State) := onBlock (command 0x03 regionFree src) s

/-- `region_zero`: a granule-aligned range of one Region; the reduction header keeps its bytes (R238). -/
def regionZero (e : BitVec 512) (src : Nat) (b : Block) : Block :=
  let id := fld (cmdArg e 0) 11 0
  let off := cmdArg e 1
  let n := cmdArg e 2
  match namedRegion b id with
  | none => finishCmd b src 0x838 0 0
  | some r =>
    if off % 16 != 0 || n % 16 != 0 || decide (r.size < off + n) then finishCmd b src 0x838 0 0
    else if regionBusy b id r then finishCmd b src 0x602 0 0
    else
      let lo := if r.kind = .reduce then max 64 off else off
      startCmd (putRegion b id { r with zero := .host src lo (off + n - lo) }) src

def execRegionZero (src : Nat) (s : State) := onBlock (command 0x04 regionZero src) s

/-- `reduce_arm`: the bank checks the arm (R239). -/
def reduceArmRun (e : BitVec 512) (src : Nat) (b : Block) : Block :=
  let id := fld (cmdArg e 0) 11 0
  match namedRegion b id with
  | none => finishCmd b src 0x838 0 0
  | some r =>
    if r.kind ≠ .reduce then finishCmd b src 0x838 0 0
    else startCmd (putRegion b id
      { r with armReqs := r.armReqs ++ [⟨BitVec.ofNat 64 (cmdArg e 1), false, .host src⟩] }) src

def execReduceArmCommand (src : Nat) (s : State) := onBlock (command 0x05 reduceArmRun src) s

/-! ## Streams, Gates, codecs (R202, R223, R224, R450, R187) -/

/-- `stream_arm` and `stream_rearm`: the descriptor lies in the stream's Current and in a Region of the job (R197; log
148). -/
def streamArmRun (rearm : Bool) (e : BitVec 512) (src : Nat) (b : Block) : Block :=
  let sid := fld (cmdArg e 0) 10 0
  match leeEp b false (cmdArg e 1) 64 with
  | none => finishCmd b src 0x838 0 0
  | some (r, a) =>
    if !curUsable b (sid / 256) || r.cur != sid / 256 || (b.job.running && !r.held) then finishCmd b src 0x838 0 0
    else
      let d := leeBytesAt b a 64
      let v := markedNat d.1
      if v.2 then finishCmd d.2 src 0x118 0 0
      else if b.job.stop.isSome then finishCmd d.2 src 0x10A 0 0
      else match armCheck d.2 sid rearm v.1 (BitVec.ofNat 64 (cmdArg e 2)) with
        | .error c => finishCmd d.2 src c 0 0
        | .ok x => finishCmd (placeXfer d.2 sid rearm x) src 0 0 0

def execStreamArm (src : Nat) (s : State) := onBlock (command 0x06 (streamArmRun false) src) s
def execStreamRearm (src : Nat) (s : State) := onBlock (command 0x07 (streamArmRun true) src) s

/-- `stream_resume` and `stream_abort`, with what the engine does. -/
def streamCmd (f : Block → Nat → Block) (e : BitVec 512) (src : Nat) (b : Block) : Block :=
  let sid := fld (cmdArg e 0) 10 0
  if curUsable b (sid / 256) then finishCmd (f b sid) src 0 0 0 else finishCmd b src 0x838 0 0

def execStreamResume (src : Nat) (s : State) := onBlock (command 0x08 (streamCmd resumeStream) src) s
def execStreamAbort (src : Nat) (s : State) := onBlock (command 0x09 (streamCmd abortStream) src) s

/-- `gate_signal` (R44, R88, R450). -/
def gateSignalRun (e : BitVec 512) (src : Nat) (b : Block) : Block :=
  let g := fld (cmdArg e 0) 12 0
  let n := fld (cmdArg e 0) 31 16
  let k := getGate b g
  if n = 0 || !curUsable b (g / 1024) || !k.held || k.barUse then finishCmd b src 0x838 0 0
  else finishCmd (addSignal b g n) src 0 0 0

def execGateSignal (src : Nat) (s : State) := onBlock (command 0x0A gateSignalRun src) s

/-- UNIT of R186 names a unit of the kind. -/
def unitNamed (unfurl : Bool) (u : Nat) : Bool :=
  decide (u < (if unfurl then 4 else 2)) || u == 0x10 || (decide (0x20 ≤ u) && decide (u < 0x38))

/-- `furl` and `unfurl`: the job is offered to its unit, and the command ends when the unit accepts it. -/
def codCommand (unfurl : Bool) (e : BitVec 512) (src : Nat) (b : Block) : Block :=
  let n := fld (cmdArg e 0) 2 0
  let u := fld (cmdArg e 0) 13 8
  match leeEp b true (cmdArg e 1) 128 with
  | none => finishCmd b src 0x838 0 0
  | some (_, a) =>
    if !curUsable b n || !unitNamed unfurl u then finishCmd b src 0x838 0 0
    else startCmd { b with codOffers := b.codOffers ++ [⟨.host src, unfurl, n, u, a⟩] } src

def execFurlCommand (src : Nat) (s : State) := onBlock (command 0x0B (codCommand false) src) s
def execUnfurlCommand (src : Nat) (s : State) := onBlock (command 0x0C (codCommand true) src) s

/-! ## Ranges and contexts (R290, R412) -/

/-- `range_arm`. -/
def rangeArmRun (e : BitVec 512) (src : Nat) (b : Block) : Block :=
  match leeEp b false (cmdArg e 1) 64 with
  | none => finishCmd b src 0x838 0 0
  | some (_, a) =>
    let t := armRange b (fld (cmdArg e 0) 7 0) a
    finishCmd t.2 src t.1 0 0

def execRangeArm (src : Nat) (s : State) := onBlock (command 0x12 rangeArmRun src) s

/-- `range_free`. -/
def rangeFreeRun (e : BitVec 512) (src : Nat) (b : Block) : Block :=
  finishCmd (freeRange b (fld (cmdArg e 0) 7 0)) src 0 0 0

def execRangeFree (src : Nat) (s : State) := onBlock (command 0x13 rangeFreeRun src) s

/-- `context_assign`. -/
def contextAssign (e : BitVec 512) (src : Nat) (b : Block) : Block :=
  let c := fld (cmdArg e 0) 3 0
  let x := getCtx b c
  if x.held then finishCmd b src 0x730 0 0
  else finishCmd (putCtx b c { x with tenant := some (fld (cmdArg e 0) 15 8) }) src 0 0 0

def execContextAssign (src : Nat) (s : State) := onBlock (command 0x14 contextAssign src) s

end Sys2Proof.Machine
end

