-- ==== Sys2Proof/Machine/Status.lean ====
section
/-! DEFINITION. What an Eddy waits for, as its status register and the watchdog see it (R95, R381, R437). -/

namespace Sys2Proof.Machine

/-- The instruction at the Task's index would issue but for a full unit queue: its class; or but for an interlock or a
HALT's wait: nothing (R74, R75, R80). -/
def heldBy (b : Block) (e : Nat) : Option (Option Nat) :=
  let x := getEddy b e
  if 16383 < x.pc then none
  else match fetch x x.pc with
    | (none, _) => none
    | (some w, _) =>
      if !legal w || predPoison x (insPred w) || !predHolds x (insPred w) || mayIssue b e w then none
      else if isUnitClass (insClass w) && decide (8 ≤ (queueOf x (insClass w)).length) then some (some (insClass w))
      else some none

/-- The value of R437's list entry of type 2 for an instruction that waits in the queue of a class. -/
def queueCode (x : Eddy) (cls : Nat) : Nat :=
  match (queueOf x cls).getLast? with
  | some (.swait sid _ _) => 2 * 2 ^ 60 + sid
  | some (.rwait id _ _) => 2 * 2 ^ 60 + 2 ^ 59 + id
  | some (.cwait desc) => 3 * 2 ^ 60 + desc
  | _ => 6 * 2 ^ 60 + x.pc % 2 ^ 14

/-- What a running Task waits on, in the encoding of R437; nothing when it is not WAITING. -/
def waitCode (b : Block) (e : Nat) : Option Nat :=
  let x := getEddy b e
  if x.run != .running || x.dapHalt then none
  else match x.wait with
    | .gate g false => some (2 ^ 60 + g)
    | .gate _ true => none
    | .unit cls => some (queueCode x cls)
    | .mov => some (4 * 2 ^ 60 + x.pc % 2 ^ 14)
    | .fence _ => some (4 * 2 ^ 60 + x.pc % 2 ^ 14)
    | .none =>
      match heldBy b e with
      | none => none
      | some (some cls) => some (5 * 2 ^ 60 + cls * 2 ^ 16 + x.pc % 2 ^ 14)
      | some none => some (6 * 2 ^ 60 + x.pc % 2 ^ 14)

/-- EDDY.STATUS.STATE (R95). -/
def eddyState (b : Block) (e : Nat) : Nat :=
  match (getEddy b e).run with
  | .idle => 0
  | .loading => 1
  | .running => if (waitCode b e).isSome then 3 else 2
  | .halted => 4
  | .faulted => 5

end Sys2Proof.Machine
end

