-- ==== Sys2Proof/Machine/Job.lean ====
section
/-! DEFINITION. Jobs: the image and its checks, start, stop, the watchdog, the end and the job boundary (R42, R87, R93,
R245, R346, R381, R393, R412, R413, R435 to R437). -/

namespace Sys2Proof.Machine

/-! ## The job image (R435) -/

/-- An entry of the Task table. -/
structure TaskEntry where
  eddy : Nat
  entry : Nat
  region : Nat
  off : Nat
  bytes : Nat
  crc : Nat
  args : List DWord
deriving DecidableEq, Repr

/-- A job image as its header and tables give it. -/
structure Image where
  major : Nat
  minor : Nat
  generation : Nat
  watchdog : Nat
  tenant : Nat
  seed : DWord
  ctxs : List Nat
  tasks : List TaskEntry
  gates : List (Nat × Nat)
  regions : List Nat
  streams : List Nat
deriving DecidableEq, Repr

/-- n bytes at an offset from the image's header, when they lie in its Region and carry no mark (log 46). -/
def imageBytesAt (b : Block) (r : Region) (a off n : Nat) : Option (List Byte) :=
  if n = 0 then some []
  else if regionAddr r + r.size < a + off + n then none
  else
    let d := (leeBytesAt b (a + off) n).1
    if d.any (·.2) then none else some (d.map (·.1))

/-- Reading a part of an image does to Lee what any read does (R233). -/
def scanAt (b : Block) (r : Region) (a off n : Nat) : Block :=
  if regionAddr r + r.size < a + off + n then b else (leeBytesAt b (a + off) n).2

/-- A little-endian field of some bytes. -/
def leField (l : List Byte) (off n : Nat) : Nat := leNat ((l.drop off).take n)

/-- A Task table entry. -/
def taskOf (l : List Byte) : TaskEntry where
  eddy := leField l 0 1
  entry := leField l 2 2
  region := leField l 4 2
  off := leField l 8 4
  bytes := leField l 0xC 4
  crc := leField l 0x10 4
  args := (List.range 8).map (fun i => BitVec.ofNat 64 (leField l (0x20 + 8 * i) 8))

/-- The fields of a header are in range (R435). -/
def headerOk (h : List Byte) : Bool :=
  leField h 0 4 == 0x424F4A46 && decide (1 ≤ leField h 0xA 2) && decide (leField h 0xA 2 ≤ 128) &&
    decide (leField h 0xC 2 ≤ 8192) && decide (leField h 0xE 1 ≤ 60) && decide (leField h 0x1A 2 ≤ 4095) &&
    leField h 0x2C 20 == 0

/-- A segment's size is a multiple of 16 and at most 256 KiB. -/
def segmentOk (t : TaskEntry) : Bool := t.bytes % 16 == 0 && decide (t.bytes ≤ 0x40000)

/-- The image at an address of a Region, or nothing when it is not valid. -/
def readImage (b : Block) (r : Region) (a : Nat) : Option Image := do
  let h ← imageBytesAt b r a 0 64
  if !headerOk h then none
  let nt := leField h 0xA 2
  let ng := leField h 0xC 2
  let nr := leField h 0x1A 2
  let tt ← imageBytesAt b r a (leField h 0x1C 4) (96 * nt)
  let gt ← imageBytesAt b r a (leField h 0x20 4) (8 * ng)
  let rt ← imageBytesAt b r a (leField h 0x24 4) (2 * nr)
  let st ← imageBytesAt b r a (leField h 0x28 4) 256
  let tasks := (chunks nt 96 tt).map taskOf
  if !tasks.all segmentOk then none
  some {
    major := leField h 4 2
    minor := leField h 6 2
    generation := leField h 8 2
    watchdog := leField h 0xE 1
    tenant := leField h 0xF 1
    seed := BitVec.ofNat 64 (leField h 0x10 8)
    ctxs := setBits 16 (leField h 0x18 2)
    tasks := tasks
    gates := (chunks ng 8 gt).map (fun g => (leField g 0 2 % 2 ^ 13, leField g 4 4))
    regions := (chunks nr 2 rt).map (fun x => leField x 0 2)
    streams := setBits 2048 (leNat st) }

/-! ## The checks of job_start (R436) -/

/-- The Region and address of a segment. -/
def segmentAt (b : Block) (t : TaskEntry) : Option (Region × Nat) :=
  (namedRegion b t.region).map (fun r => (r, regionAddr r + t.off))

/-- Every Eddy is usable and named once; every Gate, stream and Region exists in an enabled Current. -/
def resourcesOk (b : Block) (im : Image) : Bool :=
  im.tasks.all (fun t => eddyUsable b t.eddy && curUsable b (t.eddy / 16)) &&
    decide (im.tasks.map (·.eddy)).Nodup && im.gates.all (fun g => curUsable b (g.1 / 1024)) &&
    im.streams.all (fun s => curUsable b (s / 256)) && im.regions.all (fun r => (namedRegion b r).isSome) &&
    im.tasks.all (fun t => (segmentAt b t).isSome)

/-- Every segment lies in its Region, which is no STASH Region. -/
def segmentsOk (b : Block) (im : Image) : Bool :=
  im.tasks.all (fun t => (namedRegion b t.region).all (fun r => r.kind != .stash && decide (t.off + t.bytes ≤ r.size)))

/-- The persistent Regions and the contexts that the image names belong to its tenant (R412). -/
def tenantOk (b : Block) (im : Image) : Bool :=
  im.ctxs.all (fun c => (getCtx b c).tenant.getD 0 == im.tenant) &&
    (im.regions ++ im.tasks.map (·.region)).all (fun id =>
      (getRegion b id).all (fun r => !r.persistent || r.tenant == im.tenant))

/-- The bytes of a segment and whether its CRC-32C holds; a marked granule fails it (R93). -/
def segment (b : Block) (t : TaskEntry) : List Byte × Bool :=
  match segmentAt b t with
  | none => ([], false)
  | some (_, a) =>
    let d := (leeBytesAt b a t.bytes).1
    (d.map (·.1), !d.any (·.2) && crc32c (d.map (·.1)) == t.crc)

/-- The block after the header, the tables and the segments of an image have been read. -/
def scanImage (b : Block) (r : Region) (a : Nat) : Block :=
  let b := scanAt b r a 0 64
  match imageBytesAt b r a 0 64 with
  | none => b
  | some h =>
    if !headerOk h then b
    else
      let b := scanAt b r a (leField h 0x1C 4) (96 * leField h 0xA 2)
      let b := scanAt b r a (leField h 0x20 4) (8 * leField h 0xC 2)
      let b := scanAt b r a (leField h 0x24 4) (2 * leField h 0x1A 2)
      let b := scanAt b r a (leField h 0x28 4) 256
      match readImage b r a with
      | none => b
      | some im => im.tasks.foldl (fun b t =>
          match segmentAt b t with
          | some (r', a') => scanAt b r' a' 0 t.bytes
          | none => b) b

/-- The refusal of R436, if any. -/
def jobRefusal (b : Block) (im : Option Image) : Option Nat :=
  if b.job.running then some 0x833
  else if b.sec.state = 4 || (inCalm b && b.sec.level != 2) then some 0x835
  else match im with
    | none => some 0x830
    | some im =>
      if inCalm b && im.tasks.any (fun t => decide (16 ≤ t.eddy)) then some 0x835
      else if !segmentsOk b im then some 0x830
      else if im.major ≠ 2 ∨ 0 < im.minor then some 0x831
      else if im.generation ≠ 0 ∧ im.generation ≠ 2 then some 0x832
      else if !resourcesOk b im then some 0x834
      else if !tenantOk b im then some 0x731
      else if im.tasks.any (fun t => !(segment b t).2) then some 0x836
      else none

/-! ## Job start (R42, R71, R93, R108, R149, R413, R436) -/

/-- The Vane registers and CSUM cleared (R413). -/
def clearVanes (x : Eddy) : Eddy := { x with vanes := [] }

/-- What every Eddy's registers lose at a job start. -/
def jobClear (x : Eddy) : Eddy :=
  { x with slots := [], accErr := [], longDrains := 0, satDrains := 0, nanCvt := 0, satCvt := 0, drawVec := 0,
           drawQnt := 0, drawDrain := 0, once := [], resRose := [] }

/-- Instruction memory after a load: the segment from index 0, HALT beyond it (R93). -/
def imemOf (l : List Byte) : Table Granule :=
  ((chunks 16384 16 l).zipIdx.map (fun p => (p.2, granuleOf p.1))).filter (fun p => p.2 != haltWord)

/-- The s registers at Task start (R71). -/
def argRegs (args : List DWord) : Vector DWord 32 := Vector.ofFn (fun i => if i.val < 8 then args.getD i.val 0 else 0)

/-- An Eddy loaded with a Task (R71, R93). -/
def loadTask (x : Eddy) (t : TaskEntry) (l : List Byte) : Eddy :=
  { x with
    run := .loading
    pc := t.entry
    sreg := argRegs t.args
    areg := Vector.replicate 16 0
    lreg := Vector.replicate 8 0
    preg := 0
    poison := 0
    calls := []
    loops := []
    cycles := 0
    wait := .none
    imem := imemOf l
    imemErr := []
    queues := []
    matOps := []
    matSeq := 0 }

/-- Every Task loaded. -/
def loadTasks : List TaskEntry → Block → Block
  | [], b => b
  | t :: r, b => loadTasks r (updEddy b t.eddy (fun x => loadTask x t (segment b t).1))

/-- The Gates of the job at their initial values (R87). -/
def startGates : List (Nat × Nat) → Block → Block
  | [], b => b
  | g :: r, b => startGates r (putGate b g.1 { Gate.fresh with value := g.2, held := true })

/-- The counters and once-per-job marks that a job start clears, and what the job holds. -/
def startUnits (b : Block) (im : Image) : Block :=
  let b := { b with
    eddies := Table.mapAll Eddy.fresh b.eddies jobClear
    currents := Table.mapAll Current.fresh b.currents (fun c => { c with atomRefused := 0, atomLate := 0, poisonCount := 0 })
    streams := Table.mapAll Stream.fresh b.streams (fun s => { s with misses := 0, faults := 0, missNoted := false })
    codecs := Table.mapAll Codec.fresh b.codecs (fun k => { k with once := [] })
    ports := Table.mapAll Port.fresh b.ports (fun p => { p with once := [] })
    links := Table.mapAll Link.fresh b.links (fun k => { k with once := [] })
    lee := { b.lee with regions := b.lee.regions.map (fun p =>
      (p.1, { p.2 with once := [], held := im.regions.contains p.1 })) } }
  let b := im.streams.foldl (fun b s => updStream b s (fun x => { x with held := true })) b
  im.ctxs.foldl (fun b c => putCtx b c { getCtx b c with held := true }) b

/-- The job's seed: a free value where the image gives 0 (R149, log 14). -/
def jobSeed (b : Block) (im : Image) : DWord × Block := if im.seed = 0 then takeFree b else (im.seed, b)

/-- The watchdog time in ms (R381, R382). -/
def jobWatchdog (b : Block) (im : Image) : Nat :=
  1000 * (if im.watchdog = 0 then max 1 (min 60 b.start.watchdog) else im.watchdog)

/-- After 0xFFFFFFFF the number continues at 1 (R444). -/
def nextNumber (n : Word) : Word := if n = 0xFFFFFFFF then 1 else n + 1

/-- The Eddies of a job in a Current whose Vanes are off, to be turned on (R393). -/
def vanesToTurnOn (b : Block) (l : List Nat) (n : Nat) : List Nat :=
  l.filter (fun e => e / 16 == n && !b.power.vaneOn.contains e)

/-- Queue the Vane steps of a job's Eddies. -/
def queueVanes (b : Block) (l : List Nat) : Block :=
  { b with power := { b.power with
    vaneQ := (List.range 8).filterMap (fun n =>
      let q := vanesToTurnOn b l n
      if q.isEmpty then none else some (n, q)) } }

/-- The Dispatcher starts the job; its Tasks wait for their Vanes. -/
def startJob (b : Block) (im : Image) (src report bytes : Nat) : Block :=
  let wipe : Bool := match zeroizePolicy b with
    | 0 => false
    | 1 => b.job.lastTenant.any (fun t => t != im.tenant)
    | _ => true
  let b := if wipe then { b with eddies := Table.mapAll Eddy.fresh b.eddies clearVanes } else b
  let s := jobSeed (startUnits b im) im
  let b := loadTasks im.tasks (startGates im.gates s.2)
  let eddies := im.tasks.map (·.eddy)
  queueVanes { b with job := { b.job with
    running := true
    number := nextNumber b.job.number
    stop := none
    stopped := false
    firstEddy := none
    firstPc := 0
    eddies := eddies
    tenant := im.tenant
    seed := s.1
    src := src
    reportAddr := report
    reportBytes := bytes
    watchdog := jobWatchdog b im
    waited := []
    entries := []
    throttleOnce := false
    unknownOnce := [] } } eddies

/-- A freed Region is still being zeroed (R413). -/
def freeing (b : Block) : Bool :=
  b.lee.regions.any (fun p => match p.2.zero with
    | .free _ => true
    | _ => false)

/-- `job_start`: it waits for zeroization (R413), and its result follows the start signal. -/
def jobStart (e : BitVec 512) (src : Nat) (b : Block) : Block :=
  let bytes := fld (cmdArg e 2) 31 0
  match leeEp b false (cmdArg e 0) 16, leeEp b true (cmdArg e 1) bytes with
  | some (r, a), some _ =>
    let b := scanImage b r a
    let im := readImage b r a
    match jobRefusal b im, im with
    | some c, _ => finishCmd b src c 0 0
    | none, some im => if freeing b then b else startCmd (startJob b im src (cmdArg e 1) bytes) src
    | none, none => b
  | _, _ => finishCmd b src 0x838 0 0

def execJobStart (src : Nat) (s : State) := onBlock (command 0x10 jobStart src) s

/-- The job's `job_start` command ends with the job's number. -/
def jobStarted (b : Block) : Block :=
  match Table.find b.host.running b.job.src with
  | some c => if cmdOpcode c.entry = 0x10 && c.started then finishCmd b b.job.src 0 b.job.number.toNat 0 else b
  | none => b

/-- Once every Vane of the job is on, the Dispatcher signals the Currents and the Tasks run. -/
def startSignal (b : Block) : Block :=
  if b.job.running && !b.job.stopped && b.power.vaneQ.isEmpty && b.job.eddies.any (fun e => (getEddy b e).run == .loading) then
    jobStarted (b.job.eddies.foldl (fun b e =>
      updEddy b e (fun x => if x.run = .loading then { x with run := .running } else x)) b)
  else b

/-- R393: the Vanes of one Eddy of Current n are turned on, or, with no job, off. -/
def vanePowerStep (n : Nat) (b : Block) : Block :=
  if 8 ≤ n || b.power.hold then b
  else match Table.get [] b.power.vaneQ n with
    | e :: r =>
      startSignal { b with power := { b.power with
        vaneQ := Table.put [] b.power.vaneQ n r, vaneOn := setInsert b.power.vaneOn e } }
    | [] =>
      if b.job.running then startSignal b
      else match b.power.vaneOn.find? (fun e => e / 16 == n) with
        | some e => { b with power := { b.power with vaneOn := setErase b.power.vaneOn e } }
        | none => b

def execVanePowerStep (n : Nat) (s : State) := onBlock (vanePowerStep n) s

/-- `job_abort` (R42, R442): the job is stopped; no code names an abort, so the end status is 0 (log 47). -/
def jobAbort (e : BitVec 512) (src : Nat) (b : Block) : Block :=
  if b.job.running && fld (cmdArg e 0) 31 0 == b.job.number.toNat then finishCmd (stopJob b 0) src 0 b.job.number.toNat 0
  else finishCmd b src 0x838 0 0

def execJobAbort (src : Nat) (s : State) := onBlock (command 0x11 jobAbort src) s

/-! ## The watchdog (R381) -/

/-- The check of one Eddy: the checks in a row that found it WAITING at the same cycle count. -/
def watchEddy (b : Block) (t : Table (Nat × Nat)) (e : Nat) : Table (Nat × Nat) :=
  let c := (getEddy b e).cycles.toNat
  if (waitCode b e).isNone then Table.erase t e
  else match Table.find t e with
    | some (k, c') => Table.add t e (if c' = c then (k + 1, c) else (0, c))
    | none => Table.add t e (0, c)

/-- R381: the check that falls every ms of management cycles. Time in Hold does not count (R396). -/
def watchdog (b : Block) : Block :=
  if !b.job.running || b.job.stop.isSome || b.power.hold then b
  else
    let t := b.job.eddies.foldl (watchEddy b) b.job.waited
    let b := { b with job := { b.job with waited := t } }
    if t.any (fun p => decide (b.job.watchdog ≤ p.2.1)) then
      let l := b.job.eddies.filterMap (fun e => (waitCode b e).map (fun v => (⟨2, e, 0, v⟩ : ReportEntry)))
      stopJob (report { b with job := { b.job with entries := b.job.entries ++ l } } 0 0x810 0) 0x810
    else b

def execWatchdog (s : State) := onBlock watchdog s

/-! ## Stop (R42, R190, R342) -/

/-- A Task of a stopped job: nothing that it issued goes on, and a Tile half loaded is gone (log 147). -/
def stopTask (b : Block) (e : Nat) : Block :=
  let b := if (getEddy b e).run = .running then settleCycles b e else b
  closeOwner (updEddy b e (fun x =>
    { x with run := if x.run = .running ∨ x.run = .loading then .idle else x.run
             wait := .none, queues := [], matOps := []
             vanes := Table.mapAll Vane.fresh x.vanes (fun v =>
               { v with shadow := if v.shadow = .loading then .empty else v.shadow }) })) (.drain e)

/-- A stream of the job is disarmed. -/
def disarm (b : Block) (sid : Nat) : Block := endActive (endPending b sid 0x116) sid 0x116 false

/-- The feed that the job at the head of an idle unit's queue has bound ends with that job (R185). -/
def dropFeed (b : Block) (u : Nat) : Block :=
  let c := getCodec b u
  match c.run, c.queue with
  | none, j :: _ => if j.toFeed then settle (feedEnd b u j) (16 * unitCur u + fld j.dst 47 44) else b
  | _, _ => b

/-- The jobs of a unit end: the running one at a block boundary, those not begun at once (R190). -/
def stopUnit (b : Block) (u : Nat) : Block :=
  let q := (getCodec b u).queue
  q.foldl (fun b j => codFinish b u (CodRun.fresh j) 0x20E)
    (updCodec (endCodec (dropFeed b u) u 0x20E false) u (fun c => { c with queue := [] }))

/-- The COD jobs end; an Eddy's offers are withdrawn. -/
def stopCodecs (b : Block) : Block :=
  let b := (b.codecs.map (·.1)).foldl stopUnit b
  { b with codOffers := b.codOffers.filter (fun o => match o.origin with
    | .eddy _ _ => false
    | .host _ => true) }

/-- R42: every Task stops, the streams are disarmed, the COD jobs ended. -/
def stopAll (b : Block) : Block :=
  let b := b.job.eddies.foldl stopTask b
  let b := (b.streams.map (·.1)).foldl disarm { b with gateMsgs := [] }
  let b := stopCodecs b
  { b with
    job := { b.job with stopped := true }
    power := { b.power with vaneQ := [] }
    gates := Table.mapAll Gate.fresh b.gates (fun g => { g with waits := [], barWaits := [] }) }

/-- R342: an uncontained error stops the Flow job as R42 states. -/
def uncontainedStop (b : Block) : Block :=
  let b := seamStop b
  if b.job.running && b.job.stop.isSome && !b.job.stopped then stopAll b else b

def execUncontainedStop (s : State) := onBlock uncontainedStop s

/-! ## The end report (R437) -/

/-- An entry of the end report. -/
def entryBytes (x : ReportEntry) : List Byte :=
  leBytes 1 x.kind ++ [0] ++ leBytes 2 x.id ++ leBytes 2 x.status ++ [0, 0] ++ leBytes 8 x.value

/-- The sum of a count over the Eddies. -/
def sumEddies (b : Block) (f : Eddy → Nat) : Nat := min (2 ^ 32 - 1) ((b.eddies.map (fun p => f p.2)).sum)

/-- The end report, in the bytes given for it. -/
def reportBytes (b : Block) : List Byte :=
  let j := b.job
  let fit := j.entries.take ((j.reportBytes - 64) / 16)
  let flags := b2n (decide (fit.length < j.entries.length)) + 2 * b2n (j.entries.any (fun x => x.kind == 3))
  (leBytes 4 j.number.toNat ++ leBytes 2 (j.stop.getD 0) ++ leBytes 1 (j.firstEddy.getD 0xFF) ++ leBytes 1 flags ++
    leBytes 2 j.firstPc ++ leBytes 2 fit.length ++
    leBytes 4 (min (2 ^ 32 - 1) (b.currents.map (fun c => c.2.poisonCount)).sum) ++
    leBytes 4 (sumEddies b (·.longDrains)) ++ leBytes 4 (sumEddies b (·.satDrains)) ++
    leBytes 4 (sumEddies b (·.nanCvt)) ++ leBytes 4 (sumEddies b (·.satCvt)) ++ leBytes 8 j.seed.toNat ++
    leBytes 24 0 ++ fit.flatMap entryBytes).take j.reportBytes

/-- The report written to its endpoint, if that still lies in a Region. -/
def writeReport (b : Block) : Block :=
  match leeEp b true b.job.reportAddr b.job.reportBytes with
  | none => b
  | some (r, a) =>
    { leeWriteBytes b r.cur a ((reportBytes b).map (fun x => (x, false))) with currents := b.currents }

/-! ## The job boundary (R245, R346, R399, R413) -/

/-- A VANE_MAP with a logical index given a physical Vane. -/
def mapSet (m : Word) (v p : Nat) : Word := BitVec.ofNat 32 (setFld m.toNat (4 * v + 3) (4 * v) p)

/-- The map of logical indices 0, 1, … to physical Vanes in order, and 0xF for the rest. -/
def mapOf (l : List Nat) : Word :=
  (List.range 8).foldl (fun m v => mapSet m v (l.getD v 15)) 0

/-- The physical Vanes that a map uses, ascending. -/
def physUsed (m : Word) : List Nat :=
  (List.range 9).filter (fun p => (List.range 8).any (fun v => fld m.toNat (4 * v + 3) (4 * v) == p))

/-- Step 3 of R346: V8 takes the logical index of a physical Vane, or the map narrows. -/
def mapOut (x : Eddy) (spares v8ok : Bool) (p : Nat) : Eddy :=
  let used := physUsed x.vaneMap
  if !used.contains 8 && spares && v8ok && !x.outVanes.contains 8 then
    let v := ((List.range 8).find? (fun v => fld x.vaneMap.toNat (4 * v + 3) (4 * v) == p)).getD 0
    { x with vaneMap := mapSet x.vaneMap v 8, outVanes := setInsert x.outVanes p }
  else { x with vaneMap := mapOf (used.filter (· != p)), outVanes := setInsert x.outVanes p }

/-- An Eddy is not usable from now on (R373). -/
def loseEddy (b : Block) (e : Nat) (lost : Bool) : Block :=
  if lost then { b with start := { b.start with badEddies := setInsert b.start.badEddies e } } else b

/-- R346 for one physical Vane of an Eddy, with the Vanes that fail their check. -/
def vaneCheck (fails : List (Nat × Nat)) (e : Nat) (b : Block) (p : Nat) : Block :=
  let x := getEddy b e
  let n := Table.get 0 x.resJobs p + 1
  let x := { x with resJobs := Table.put 0 x.resJobs p n }
  let qualifies := fails.contains (e, p) || (b.vaneJobs != 0 && decide (b.vaneJobs ≤ n))
  if b.vaneAuto && qualifies then
    let y := mapOut x b.start.straps.spares (!fails.contains (e, 8)) p
    bumpRecord (report (loseEddy (putEddy b e y) e (physUsed y.vaneMap).isEmpty) (0x3000 + e) 0x30A 0)
  else report (putEddy b e x) (0x3000 + e) 0x30B (BitVec.ofNat 128 (b2n (qualifies && !b.vaneAuto)))

/-- R346 for every Vane whose residue count rose. -/
def vaneChecks (fails : List (Nat × Nat)) (b : Block) : Block :=
  b.eddies.foldl (fun b p =>
    updEddy (p.2.resRose.foldl (vaneCheck fails p.1) b) p.1 (fun x => { x with resRose := [] })) b

/-- The address at which an Eddy's range begins. -/
def eddyBase (e : Nat) : Nat := e / 16 * 2 ^ 31 + e % 16 * 0xC00000

/-- R245: a bank retired, its count kept; an Eddy with fewer than 24 banks is not usable (R373). -/
def retireBank (b : Block) (e i : Nat) : Block :=
  let b := putBank b e i { getBank b e i with state := 2 }
  let b := loseEddy b e (decide (bankCount b e < 24))
  bumpRecord (report (leeZero b (eddyBase e) 0xC00000) (0x6000 + e) 0x60C (BitVec.ofNat 128 i))

/-- R245: every retire-pending bank of an Eddy range that no persistent Region holds. -/
def retireBanks (b : Block) : Block :=
  (b.lee.banks.filter (fun p => p.2.state == 1)).foldl (fun b p =>
    if (persistentOn b (p.1 / 48)).isEmpty then retireBank b (p.1 / 48) (p.1 % 48) else b) b

/-- GALE_MAX_MHZ from the next job boundary (R399). -/
def takeGaleMax (b : Block) : Block :=
  let m := (((List.range 8).filter (curEnabled b)).map (fun n => (getGale b n).max)).foldl max 0
  if m = b.power.galeMax then b else recordChange { b with power := { b.power with galeMax := m } }

/-- A Region at a job's end: released, and freed unless it is persistent (R37, R413). -/
def releaseRegion (b : Block) (id : Nat) : Block :=
  match getRegion b id with
  | none => b
  | some r =>
    if !r.held then b
    else if r.persistent then putRegion b id { r with held := false }
    else if zeroizePolicy b = 0 then dropRegion b id
    else putRegion b id { r with held := false, zero := .free none }

/-- What the job held is released. -/
def releaseAll (b : Block) : Block :=
  let b := (b.lee.regions.map (·.1)).foldl releaseRegion b
  { b with
    eddies := Table.mapAll Eddy.fresh b.eddies (fun x => { x with run := .idle, wait := .none })
    gates := Table.mapAll Gate.fresh b.gates (fun g => { g with held := false, barUse := false, barN := 0 })
    streams := Table.mapAll Stream.fresh b.streams (fun s => { s with held := false })
    ctxs := Table.mapAll XltCtx.fresh b.ctxs (fun c => { c with held := false })
    job := { b.job with running := false, lastTenant := some b.job.tenant } }

/-- The job-end entry (R428, R433): to the source ring; for the mailbox and MCTP to the notify ring while it is enabled,
else a mailbox job sets JOBEND. -/
def postEnd (b : Block) : Block :=
  let e := cplEntry 0 0 1 (b.job.stop.getD 0) b.job.number.toNat 0
  if b.job.src < 64 then pushCpl b b.job.src e
  else if b.host.notifyEn && (getRing b b.host.notifyRing).en then pushCpl b b.host.notifyRing e
  else if b.job.src = 64 then noteSet { b with host := { b.host with jobEnd := true } } .jobEnd else b

/-- Streams, COD jobs and Regions of the job have come to rest. -/
def atRest (b : Block) : Bool :=
  b.streams.all (fun p => p.2.armed.isEmpty) &&
    b.codecs.all (fun p => !p.2.run.any (fun r => r.ending.isSome)) &&
    b.lee.regions.all (fun p => !p.2.held || p.2.persistent || (p.2.armReqs.isEmpty && p.2.zero == .none))

/-- The Gates of the job with OVF (R437). -/
def ovfEntries (b : Block) : List ReportEntry :=
  (b.gates.filter (fun p => p.2.held && p.2.ovf)).map (fun p => ⟨3, p.1, 0, p.2.value⟩)

/-- R437 and the job boundary. -/
def finishJob (fails : List (Nat × Nat)) (b : Block) : Block :=
  let b := jobStarted b
  let b := writeReport { b with job := { b.job with entries := b.job.entries ++ ovfEntries b } }
  let b := takeGaleMax (retireBanks (vaneChecks fails (releaseAll b)))
  postEnd b

/-- Every Task has ended. -/
def allHalted (b : Block) : Bool := b.job.eddies.all (fun e => (getEddy b e).run == .halted)

/-- R42, R437: the job ends once every Task has ended or the stop is complete. -/
def jobEnd (fails : List (Nat × Nat)) (b : Block) : Block :=
  if !b.job.running || b.power.hold || !(b.job.stopped || (b.job.stop.isNone && allHalted b)) then b
  else
    let b := if b.job.stopped then b else stopAll b
    if atRest b then finishJob fails b else b

def execJobEnd (vaneFails : List (Nat × Nat)) (s : State) := onBlock (jobEnd vaneFails) s

end Sys2Proof.Machine
end

