-- ==== Sys2Proof/Machine/Lifecycle.lean ====
section
/-! DEFINITION. The lifecycle state, the levels of debug that it holds free or allows, nonces and firmware images (R401,
R402, R404, R405, R407, R414 to R417). -/

namespace Sys2Proof.Machine

/-! ## Fuses (R402, R407, R408) -/

/-- Blown fuses of a lifecycle group, 0 for DEV to 3 for SCRAP. -/
def groupCount (fz : Fuses) (g : Nat) : Nat := popBits 8 (fld fz.lifecycle.toNat (8 * g + 7) (8 * g))

/-- The highest state whose group has at least five fuses blown (R402). -/
def lifecycleOf (fz : Fuses) : Nat := (([4, 3, 2, 1].find? (fun s => decide (5 ≤ groupCount fz (s - 1)))).getD 0)

/-- The anti-rollback count (R407). -/
def rollbackCount (fz : Fuses) : Nat := popBits 64 fz.rollback.toNat

/-- DEVID as eight bytes. -/
def devidBytes (fz : Fuses) : List Nat := toNats (leBytes 8 fz.devid.toNat)

/-! ## Debug levels (R416, R417) -/

/-- The level that is free in a lifecycle state (0 BLANK, 1 DEV, 2 PROD, 3 RMA, 4 SCRAP) at a place of the start
sequence (R417). -/
def freeLevel (state : Nat) (p : Phase) : Nat :=
  match p with
  | .reset => 0
  | .stage n =>
    if state = 1 then 2 else if n ≤ 2 then 0 else if state = 0 then 2 else if state = 3 then 1 else 0
  | .run => if state ≤ 1 then 2 else if state = 3 then 1 else 0
  | .calm => if state ≤ 1 then 2 else 1

/-- A level that is free is held. -/
def settleLevel (b : Block) : Block :=
  { b with sec := { b.sec with level := max b.sec.level (freeLevel b.sec.state b.start.phase) } }

/-- A request of a level with a key (0 Eutric, 1 owner) that R417 allows; a free level needs none (log 48). -/
def levelAllowed (b : Block) (level key : Nat) : Bool :=
  decide (level ≤ freeLevel b.sec.state b.start.phase) ||
    (match b.start.phase with
     | .reset => false
     | .stage n => b.sec.state == 2 && decide (3 ≤ n) && level == 1
     | .run => b.sec.state == 2 || (b.sec.state == 3 && key == 0)
     | .calm => b.sec.state == 2 || (b.sec.state == 3 && key == 0))

/-! ## Nonces (R415) -/

/-- n open 64-bit values as one number. -/
def takeFreeN : Nat → Block → Nat × Block
  | 0, b => (0, b)
  | n + 1, b =>
    let v := takeFree b
    let t := takeFreeN n v.2
    (v.1.toNat + 2 ^ 64 * t.1, t.2)

/-- A fresh nonce from the block's random source: a free value (log 20). -/
def drawNonce (b : Block) : Block :=
  let v := takeFreeN 6 b
  { v.2 with sec := { v.2.sec with nonce := BitVec.ofNat 384 v.1, nonceFresh := true } }

/-! ## Keys and signatures -/

/-- A 96-byte string as two numbers of 48 bytes, most significant byte first (R404). -/
def pairOf (l : List Nat) : Nat × Nat := (beNat (l.take 48), beNat ((l.drop 48).take 48))

/-- The bytes of a key register group, word 0 first. -/
def wordBytes (n : Nat) (x : Nat) : List Nat := toNats (leBytes n x)

/-- A signature r then s over a digest under a key x then y. -/
def verifies (key : Nat × Nat) (digest : Nat) (sig : Nat × Nat) : Bool := ecVerify key.1 key.2 digest sig.1 sig.2

/-! ## Firmware images (R404, R405) -/

/-- A little-endian field of an image. -/
def imgField (l : List Byte) (off n : Nat) : Nat := leNat ((l.drop off).take n)

def imgCode (l : List Byte) : Nat := imgField l 8 4
def imgFlags (l : List Byte) : Nat := imgField l 7 1

/-- CODE_BYTES is one that R404 allows. -/
def codeBytesOk (n : Nat) : Bool := n % 16 == 0 && decide (16 ≤ n) && decide (n ≤ 3 * 2 ^ 20)

/-- Step 2 of R405. -/
def imageFormatOk (l : List Byte) (len : Nat) : Bool :=
  decide (512 ≤ l.length) && imgField l 0 4 == 0x57534B46 && imgField l 4 2 == 1 && decide (imgFlags l < 8) &&
    codeBytesOk (imgCode l) && decide (imgField l 0xC 4 < imgCode l) && len == 512 + imgCode l && l.length == len

/-- The digest that both signatures sign. -/
def imageDigest (l : List Byte) : Nat := sha384 (toNats (l.take 0xA0 ++ l.drop 512))

/-- 96 bytes of a header as two numbers. -/
def imgPair (l : List Byte) (off : Nat) : Nat × Nat := pairOf (toNats ((l.drop off).take 96))

/-- R405: the first check that fails, as start code and security code. -/
def imageRefusal (fz : Fuses) (state : Nat) (l : List Byte) (len : Nat) : Option (Nat × Nat) :=
  let root := imgFlags l % 4
  let owned := state == 2 && fz.owner
  if !(state == 1 || state == 2 || state == 3) then some (0x806, 0x708)
  else if !imageFormatOk l len then some (0x806, 0x701)
  else if fz.revoked.getLsbD root then some (0x806, 0x702)
  else if !verifies (Config.rootKey root) (imageDigest l) (imgPair l 0xA0) then some (0x806, 0x703)
  else if owned && !bit (imgFlags l) 2 then some (0x806, 0x704)
  else if owned && sha384 (toNats ((l.drop 0x40).take 96)) != fz.ownerHash.toNat then some (0x806, 0x705)
  else if owned && !verifies (imgPair l 0x40) (imageDigest l) (imgPair l 0x100) then some (0x806, 0x706)
  else if imgField l 6 1 < rollbackCount fz then some (0x807, 0x707)
  else none

end Sys2Proof.Machine
end

