-- ==== Sys2Proof/Machine/Start.lean ====
section
/-! DEFINITION. Reset, the start stages, Calm mode, the cause record, and what a management cycle does (R361 to R382). -/

namespace Sys2Proof.Machine

/-! ## Straps (R364 to R366) -/

/-- Strap values from a word in the layout of START.STRAPS. -/
def strapsOf (w : Word) : Straps where
  boot := fld w.toNat 31 30
  links := fld w.toNat 29 25
  curmask := fld w.toNat 24 17 ||| 1
  fabclk := if 6 ≤ fld w.toNat 16 14 then 0 else fld w.toNat 16 14
  spares := bit w.toNat 13
  mgtAddr := fld w.toNat 12 6
  calmAfter := if fld w.toNat 5 3 = 0 then 3 else fld w.toNat 5 3

/-! ## What a reset clears (R368) -/

/-- An Eddy after a warm reset: IMEM_ERR, residue counts, the Vane map and residue job counts. -/
def Eddy.warm (x : Eddy) : Eddy :=
  { Eddy.fresh with
    imemCorr := x.imemCorr, residue := x.residue, vaneMap := x.vaneMap, resJobs := x.resJobs, outVanes := x.outVanes }

/-- A bank after a warm reset: its state and its count. -/
def Bank.warm (x : Bank) : Bank := { Bank.fresh with state := x.state, corr := x.corr }

/-- A Current after a warm reset: the counters of R249 and R357. -/
def Current.warm (x : Current) : Current :=
  { Current.fresh with
    scrubPasses := x.scrubPasses, scrubUncorr := x.scrubUncorr, corrMat := x.corrMat, corrSwitch := x.corrSwitch,
    poisonCount := x.poisonCount }

/-- A port after a warm reset: its counters and its input pin. -/
def Port.warm (x : Port) : Port :=
  { Port.fresh with
    peer := x.peer, flitsTx := x.flitsTx, flitsRx := x.flitsRx, corr := x.corr, proto := x.proto, resets := x.resets,
    padded := x.padded }

/-- A lane after a warm reset: its state, its counters and its input pin stay (R307). -/
def Lane.warm (x : Lane) : Lane :=
  { Lane.fresh with
    state := x.state, logical := x.logical, retrains := x.retrains, high := x.high, corr := x.corr, rdy := x.rdy }

/-- A link after a warm reset: counters, lane states and LNK.CRYPT (R307). -/
def Link.warm (x : Link) : Link :=
  { Link.fresh with
    lanes := x.lanes.map Lane.warm, cqCorr := x.cqCorr, cqDamaged := x.cqDamaged, cqLost := x.cqLost,
    replays := x.replays, timeouts := x.timeouts, authFail := x.authFail, txEn := x.txEn, rxEn := x.rxEn,
    txSlot := x.txSlot, rxSlot := x.rxSlot }

/-- A codec unit after a warm reset (R192). -/
def Codec.warm (x : Codec) : Codec := { Codec.fresh with errHi := x.errHi, errLo := x.errLo }

/-- A seam channel after a warm reset (R22). -/
def SeamCh.warm (x : SeamCh) : SeamCh :=
  { SeamCh.fresh with state := if x.state = 2 then 2 else 3, corr := x.corr }

/-- Waiting reports are discarded and their counts added to LOST (R351). -/
def EventLog.warm (l : EventLog) : EventLog :=
  { addLost l ((l.waiting.map (fun p => p.2.count)).sum) with waiting := [] }

/-- Start registers after a warm reset (R368, R419). -/
def Start.warm (x : Start) : Start :=
  { Start.reset with
    phase := x.phase, coldLow := x.coldLow, warmLow := x.warmLow, straps := x.straps, ovr := x.ovr, mgtMhz := x.mgtMhz,
    portMhz := x.portMhz, portRun := x.portRun, attempts := x.attempts, cause := x.cause, causeStage := x.causeStage,
    causeDetail := x.causeDetail, tries := x.tries, interrupted := x.interrupted, calmRetry := x.calmRetry,
    scanned := x.scanned }

/-- Power registers after a warm reset (R394, R399), with the input pins. -/
def Power.warm (x : Power) : Power :=
  { Power.reset with
    droopPin := x.droopPin, budgetPin := x.budgetPin, budgetSw := x.budgetSw, droops := x.droops, holds := x.holds,
    gale := Table.mapAll Gale.fresh x.gale (fun g => { Gale.fresh with max := g.max, limit := g.limit }),
    temps := x.temps.filter (fun t => !t.2.1) }

/-- Security after a warm reset: the key slots, the failures, the lifecycle state (R402, R411, R415). -/
def Sec.warm (x : Sec) : Sec :=
  { Sec.reset with state := x.state, slots := x.slots, w1 := x.w1, fails := x.fails }

/-- The state that a warm reset keeps; the rest at its reset value. -/
def warmClear (b : Block) : Block :=
  { Block.reset with
    evt := b.evt.warm
    lee := { Block.reset.lee with banks := Table.mapAll Bank.fresh b.lee.banks Bank.warm }
    eddies := Table.mapAll Eddy.fresh b.eddies Eddy.warm
    currents := Table.mapAll Current.fresh b.currents Current.warm
    ports := Table.mapAll Port.fresh b.ports Port.warm
    links := Table.mapAll Link.fresh b.links Link.warm
    codecs := Table.mapAll Codec.fresh b.codecs Codec.warm
    seam := { Seam.reset with
      chans := Table.mapAll SeamCh.fresh b.seam.chans SeamCh.warm, xbarEast := b.seam.xbarEast, xbarWest := b.seam.xbarWest }
    start := b.start.warm
    power := b.power.warm
    sec := b.sec.warm
    vaneAuto := b.vaneAuto
    vaneJobs := b.vaneJobs
    fresh := b.fresh }

/-- What a cold reset leaves: reset values, and the input pins. -/
def coldClear (b : Block) : Block :=
  { Block.reset with
    ports := Table.mapAll Port.fresh b.ports (fun p => { Port.fresh with peer := p.peer })
    links := Table.mapAll Link.fresh b.links (fun k =>
      { Link.fresh with lanes := k.lanes.map (fun x => { Lane.fresh with rdy := x.rdy }) })
    start := { Start.reset with
      coldLow := b.start.coldLow, warmLow := b.start.warmLow, interrupted := b.start.interrupted }
    power := { Power.reset with droopPin := b.power.droopPin, budgetPin := b.power.budgetPin }
    fresh := b.fresh }

/-! ## The cause record (R371, R379) -/

/-- The word of an attempt: whole ms in its last stage, the stage, the cause. -/
def tryWord (s : Start) (stage code : Nat) : Word :=
  BitVec.ofNat 32 (min 0xFFFF (s.inStage / (1000 * s.mgtMhz)) * 2 ^ 16 + stage * 2 ^ 12 + code)

/-- An attempt ends: its word goes in front. -/
def pushTry (s : Start) (stage code : Nat) : Start :=
  { s with tries := (tryWord s stage code :: s.tries).take 8, inStage := 0 }

/-! ## Reset pins (R367 to R369) -/

/-- R369: the stage or state that a reset interrupts. -/
def phaseCode (p : Phase) : Option Nat :=
  match p with
  | .reset => none
  | .stage n => some n
  | .run => some 8
  | .calm => some 9

/-- An attempt that a pin ends is recorded with 0x80D. -/
def cutAttempt (s : Start) : Start :=
  match s.phase with
  | .stage n => pushTry s n 0x80D
  | _ => s

/-- R367, R369: a reset pin falls. -/
def resetAssert (cold : Bool) (b : Block) : Block :=
  let s := cutAttempt b.start
  let s := { s with
    interrupted := (phaseCode s.phase).or s.interrupted
    calmRetry := s.phase == .calm || (s.phase == .reset && s.calmRetry)
    phase := .reset
    coldLow := s.coldLow || cold
    warmLow := s.warmLow || !cold }
  let b := { b with start := s }
  if cold then coldClear b else warmClear b

def execResetAssert (cold : Bool) (s : State) := onBlock (resetAssert cold) s

/-- Start stage S0 begins; Windsock records what the reset interrupted (R369). -/
def beginStart (b : Block) (st : Straps) : Block :=
  let b := drawNonce { b with start := { b.start with phase := .stage 0, inStage := 0, straps := st } }
  let b := settleLevel b
  match b.start.interrupted with
  | none => b
  | some n => report { b with start := { b.start with interrupted := none } } 0xC000 0x80D (BitVec.ofNat 128 n)

/-- R365, R367, R368: RST_COLD_N rises. The block stays in reset while RST_WARM_N is low. -/
def rstColdN (straps : Word) (fz : Fuses) (b : Block) : Block :=
  if !b.start.coldLow then b
  else
    let b := coldClear b
    let b := { b with
      start := { b.start with coldLow := false, straps := strapsOf straps }
      sec := { b.sec with state := lifecycleOf fz } }
    if b.start.warmLow then b else beginStart b (strapsOf straps)

def execRstColdN (straps : BitVec 32) (s : State) := onBlockF (rstColdN straps) s

/-- R365, R366, R368, R419: RST_WARM_N rises; the straps come from START.OVR while VALID is 1. The block stays in reset
while RST_COLD_N is low, and after a scan until a cold reset. -/
def rstWarmN (straps : Word) (b : Block) : Block :=
  if !b.start.warmLow then b
  else
    let b := warmClear b
    let b := { b with start := { b.start with warmLow := false, portRun := b.start.portMhz } }
    if b.start.coldLow || b.start.scanned then b
    else beginStart b (strapsOf (if b.start.ovr.getLsbD 0 then b.start.ovr else straps))

def execRstWarmN (straps : BitVec 32) (s : State) := onBlock (rstWarmN straps) s

/-! ## Calm mode (R376 to R378) -/

/-- The log takes waiting reports in its order until that of a source is taken (R351); at most n of them. -/
def flushSource : Nat → Block → Nat → Block
  | 0, b, _ => b
  | n + 1, b, source =>
    if (Table.find b.evt.waiting source).isNone then b else flushSource n (eventAppend b) source

/-- R376, R377: the block enters Calm mode; its first event follows the failure's in the log (log 130). -/
def enterCalm (b : Block) : Block :=
  let b := flushSource b.evt.waiting.length { b with start := { b.start with
    phase := .calm, calmStamp := b.evt.cycle, monitor := !b.start.fw, bootReq := none, pll := b.start.pll &&& 0x101 } } 0xC000
  let b := report b 0xC000 0x80E 0
  let b := { b with
    links := Table.mapAll Link.fresh b.links Link.warm
    ports := Table.mapAll Port.fresh b.ports (fun p => { p with up := false }) }
  let b := (List.range 63).foldl (fun b f => updPort b (f + 1) Port.warm) b
  settleLevel (bumpRecord (updPort b 0 (fun p => { p with up := p.state != 2 && mayRaise b 0 })))

/-! ## Failed attempts (R371, R376, R378) -/

/-- A stage fails: the attempt ends, and the block enters Calm mode or starts again. -/
def failStage (b : Block) (stage code detail : Nat) : Block :=
  let s := b.start
  let calm := code == 0x802 || s.calmRetry || decide (s.straps.calmAfter ≤ s.attempts + 1)
  let b := { b with start := { pushTry s stage code with
    attempts := min 255 (s.attempts + 1), cause := code, causeStage := stage, causeDetail := BitVec.ofNat 32 detail } }
  if calm then enterCalm (report b 0xC000 code (BitVec.ofNat 128 detail))
  else
    let b := warmClear b
    beginStart (report b 0xC000 code (BitVec.ofNat 128 detail)) s.straps

/-! ## Stages (R370 to R375) -/

/-- The PLLs of S0, in the layout of CLK.PLL_STATUS: the Gale PLL of every enabled Current, the port PLL and both seam
PLLs. -/
def pllNeeded (b : Block) : Nat := 0x700 + ((List.range 8).map (fun n => b2n (bit b.start.straps.curmask n) * 2 ^ n)).sum

/-- R362: a PLL locks. -/
def pllLock (p : Nat) (b : Block) : Block :=
  if b.start.phase == .stage 0 && bit (pllNeeded b) p then
    { b with start := { b.start with pll := b.start.pll ||| BitVec.ofNat 11 (2 ^ p) } }
  else b

def execPllLock (pll : Nat) (s : State) := onBlock (pllLock pll) s

/-- The image is in Windsock SRAM whole, or its header is one that no length fits (R372). -/
def imageWhole (s : Start) : Bool :=
  if s.straps.boot = 0 then s.imageLen.isSome
  else decide (512 ≤ s.image.length) &&
    (!codeBytesOk (imgCode s.image) || decide (512 + imgCode s.image ≤ s.image.length))

/-- The image that S2 verifies, and its length. -/
def imageOf (s : Start) : List Byte × Nat :=
  if s.straps.boot = 0 then (s.image, s.imageLen.getD 0)
  else (s.image.take (512 + imgCode s.image), 512 + imgCode s.image)

/-- S2 begins: the boot source is brought up (R328, R372). -/
def beginFetch (b : Block) : Block :=
  let b := { b with start := { b.start with image := [], imageLen := none, bootReq := none } }
  if b.start.straps.boot = 1 then updPort b 0 (fun p => { p with up := mayRaise b 0 })
  else if b.start.straps.boot = 2 ∧ linkPresent b 0 = true then beginTraining b 0 else b

/-- S6 begins: the populated links that are not yet UP train (R297, R370). -/
def beginLinks (b : Block) : Block :=
  (List.range 24).foldl (fun b l =>
    if linkPresent b l && (getLink b l).state == 0 then beginTraining b l else b) b

/-- The next stage begins. -/
def nextStage (b : Block) (n : Nat) : Block :=
  let b := settleLevel { b with start := { b.start with phase := .stage n, inStage := 0 } }
  if n = 2 then beginFetch b else if n = 6 then beginLinks b else b

/-- S0 ends (R376, R380). -/
def endS0 (b : Block) : Block :=
  let missing := pllNeeded b - (pllNeeded b &&& b.start.pll.toNat)
  if b.start.straps.boot = 3 then failStage b 0 0x802 0
  else if missing ≠ 0 then failStage b 0 0x801 missing
  else nextStage b 1

/-- S1 ends: kind 0 of the list is the ROM check, kind 1 the SRAM test. -/
def endS1 (bad : List (Nat × Nat)) (b : Block) : Block :=
  if bad.any (fun p => p.1 == 0) then failStage b 1 0x803 0
  else if bad.any (fun p => p.1 == 1) then failStage b 1 0x804 0
  else nextStage b 2

/-- S2 ends: BLANK loads nothing; else the image is verified, or its source has not delivered it. -/
def endS2 (bad : List (Nat × Nat)) (fz : Fuses) (b : Block) : Block :=
  let s := b.start
  if b.sec.state = 0 then nextStage { b with start := { s with monitor := true } } 3
  else if b.sec.state = 4 then failStage b 2 0x806 0x708
  else if !imageWhole s then (if bad.isEmpty then b else failStage b 2 0x805 0)
  else
    let t := imageOf s
    match imageRefusal fz b.sec.state t.1 t.2 with
    | some c => failStage b 2 c.1 c.2
    | none => nextStage { b with start := { s with
        fw := true, monitor := false, fwEntry := b.evt.cycle, fwRoot := imgFlags t.1 % 4,
        fwOwner := b.sec.state == 2 && fz.owner, fwSvn := imgField t.1 6 1, bootReq := none } } 3

/-- S3 ends (R373): kind 0 of the list is a bank that cannot be repaired (48 times the Eddy plus the bank), kind 1 an
Eddy whose instruction memory or accumulator store cannot, kind 2 a link whose catch queue or replay buffer cannot. -/
def endS3 (bad : List (Nat × Nat)) (b : Block) : Block :=
  let ids (k n : Nat) : List Nat := (List.range n).filter (fun i => bad.contains (k, i))
  let b := (ids 0 6144).foldl (fun b i =>
    if (getBank b (i / 48) (i % 48)).state = 2 then b else retireBank b (i / 48) (i % 48)) b
  let few := (List.range 128).filter (fun e => decide (bankCount b e < 24) || bad.contains (1, e))
  let b := { b with
    lee := { b.lee with mem := [], poison := [], err := [] }
    start := { b.start with badEddies := few, badLinks := ids 2 24 } }
  if (List.range 16).any (eddyUsable b) then nextStage b 4 else failStage b 3 0x808 0

/-- V8 leaves a map while no spare Vane may be used (R12, R374). -/
def withoutSpare (spares : Bool) (x : Eddy) : Eddy :=
  if !spares && (physUsed x.vaneMap).contains 8 then { x with vaneMap := mapOf ((physUsed x.vaneMap).filter (· != 8)) }
  else x

/-- The map of one Eddy after the check of S4, with the physical Vanes that fail (R346 step 3, R374). -/
def checkVanes (bad : List (Nat × Nat)) (b : Block) (e : Nat) : Block :=
  let fails := (List.range 9).filter (fun v => bad.contains (e, v))
  if fails.isEmpty && withoutSpare b.start.straps.spares (getEddy b e) = getEddy b e then b
  else updEddy b e (fun x =>
    let x := withoutSpare b.start.straps.spares x
    let x := if fails.contains 8 then { x with outVanes := setInsert x.outVanes 8 } else x
    fails.foldl (fun x p =>
      if (physUsed x.vaneMap).contains p then mapOut x b.start.straps.spares true p else x) x)

/-- S4 ends: pairs of an Eddy and a physical Vane that fails (R374). -/
def endS4 (bad : List (Nat × Nat)) (b : Block) : Block :=
  let b := (List.range 128).foldl (checkVanes bad) b
  let none' := (List.range 128).filter (fun e => (physUsed (getEddy b e).vaneMap).isEmpty)
  if (List.range 16).all (fun e => none'.contains e) then failStage b 4 0x809 0
  else nextStage { b with start := { b.start with badEddies := none'.foldl setInsert b.start.badEddies } } 5

/-- The seam's channels before any that fails is retired; a retired S32 or S33 stays so (R20, R22, R375). -/
def seamInit (b : Block) : Block :=
  (List.range 34).foldl (fun b s =>
    putCh b s { getCh b s with
      state := if s < 32 then 1 else if (getCh b s).state = 2 then 2 else if b.start.straps.spares then 0 else 3
      logical := if s < 32 then s else 0 }) b

/-- S5 ends: channels that do not train, and those retired before, are retired (R375). -/
def endS5 (bad : List (Nat × Nat)) (b : Block) : Block :=
  let out := (List.range 34).filter (fun s => bad.contains (0, s) || (getCh b s).state == 2)
  let b := seamInit b
  let b := (out.filter (fun s => decide (32 ≤ s))).foldl (fun b s =>
    if b.start.straps.spares then putCh b s { getCh b s with state := 2 } else b) b
  let b := (out.filter (fun s => decide (s < 32))).foldl retireMap b
  if (chansIn b 1).isEmpty && (List.range 8).any (fun n => decide (4 ≤ n) && curEnabled b n) then failStage b 5 0x80A 0
  else nextStage { b with seam := { b.seam with trained := true } } 6

/-- S6 ends once no link trains any more (R375). -/
def endS6 (b : Block) : Block :=
  let present := (List.range 24).filter (linkPresent b)
  if present.any (fun l => (getLink b l).state == 1) then b
  else if (present.countP (linkUp b)) < min (min 24 b.start.minLinks) (linkCount b) then failStage b 6 0x80B 0
  else nextStage b 7

/-- S7 ends: the record is built, MGT_READY and the fabric ports rise, jobs are accepted (R370). -/
def endS7 (b : Block) : Block :=
  let b := settleLevel { b with
    start := { pushTry b.start 7 0 with phase := .run, ready := true, calmRetry := false }
    power := { b.power with galeMax :=
      (((List.range 8).filter (curEnabled b)).map (fun n => (getGale b n).max)).foldl max 0 }
    host := { b.host with updateSeq := 1 } }
  (List.range 64).foldl (fun b f =>
    updPort b f (fun p => { p with up := p.up || (p.state == 0 && mayRaise b f) })) b

/-- R370: a start stage ends; the list says what its checks found. -/
def startStageEnd (bad : List (Nat × Nat)) (fz : Fuses) (b : Block) : Block :=
  match b.start.phase with
  | .stage 0 => endS0 b
  | .stage 1 => endS1 bad b
  | .stage 2 => endS2 bad fz b
  | .stage 3 => endS3 bad b
  | .stage 4 => endS4 bad b
  | .stage 5 => endS5 bad b
  | .stage 6 => endS6 b
  | .stage 7 => endS7 b
  | _ => b

def execStartStageEnd (bad : List (Nat × Nat)) (s : State) := onBlockF (startStageEnd bad) s

/-- R371: the stage timer of 2 s expires. -/
def stageTimeout (b : Block) : Block :=
  match b.start.phase with
  | .stage n =>
    failStage { b with start := { b.start with inStage := max b.start.inStage (2000000 * b.start.mgtMhz) } } n 0x80C 0
  | _ => b

def execStageTimeout (s : State) := onBlock stageTimeout s

/-- R366: START.LOCK. -/
def startLock (b : Block) : Block :=
  if b.start.phase = .reset then b else { b with start := { b.start with lock := true } }

def execStartLock (s : State) := onBlock startLock s

/-- The management port is the boot source and the transfer has not ended (R372). -/
def takesImage (s : Start) : Bool := s.phase == .stage 2 && s.straps.boot == 0 && s.imageLen.isNone

/-- R372: a word of the image. -/
def bootPort (w : Word) (b : Block) : Block :=
  if takesImage b.start then { b with start := { b.start with image := b.start.image ++ leBytes 4 w.toNat } } else b

def execBootPort (w : BitVec 32) (s : State) := onBlock (bootPort w) s

/-- R372: the end of the transfer. -/
def bootGo (len : Word) (b : Block) : Block :=
  if takesImage b.start then { b with start := { b.start with imageLen := some (fld len.toNat 22 0) } } else b

def execBootGo (len : BitVec 32) (s : State) := onBlock (bootGo len) s

/-! ## A management cycle -/

/-- The next granules that the boot ROM asks for: at most n, the whole first time (R372). -/
def bootNext (s : Start) (n : Nat) : Nat × Nat :=
  let off := s.image.length
  if off = 0 then (0, n) else (off, min n ((512 + imgCode s.image - off + 15) / 16))

/-- The boot ROM asks F0 or L0 for the next part of the image, one request at a time (R326, R372, log 49). -/
def bootFetch (b : Block) : Block :=
  let s := b.start
  if s.phase ≠ .stage 2 ∨ s.bootReq.isSome = true ∨ imageWhole s = true ∨ b.sec.state = 0 ∨ b.sec.state = 4 then b
  else if s.straps.boot = 1 ∧ (getPort b 0).state = 1 then
    let q := bootNext s 4096
    let b := { b with start := { s with bootReq := some q } }
    updPort b 0 (fun p => setTxQueue p 3 (txQueue p 3 ++ [⟨.boot, 9, 0, q.1, q.2, [], true, false, 0⟩]))
  else if s.straps.boot = 2 ∧ (getLink b 0).state = 2 then
    let q := bootNext s 32
    let k := getLink b 0
    match freeTag k with
    | none => b
    | some t =>
      let u := ((Table.find k.tags t).map (fun u => (u.gen + 1) % 16)).getD 0
      let pkt : LinkPkt := ⟨.none, pktHeader 0x20 0 (reqMid (t + 4096 * u) 0 q.1) ((q.2 - 1) * 2 ^ 27)⟩
      putLink { b with start := { s with bootReq := some q } } 0 { pushPkt k 2 pkt with
        tags := Table.add k.tags t ⟨u, some (none, q.1, q.2, q.1)⟩ }
  else b

/-- The port cycles of one management cycle (R360; log 152). -/
def portCycles (s : Start) : Start :=
  let n := s.portPart + s.portRun
  { s with portCycle := s.portCycle + n / s.mgtMhz, portPart := n % s.mgtMhz }

/-- The outputs of a port once the fabric cycles of a management cycle have passed without a flit or a credit (R317,
R322; log 154). -/
def restPins (p : Port) : Port := { p with txFlit := 0, txValid := false, txCls := 0, rxCr := [0, 0, 0, 0] }

/-- One management cycle with no command waiting (log 2): the cycle and stage counts, the pins of one cycle, the bank words
that a ZERO writes (log 156), and the boot ROM's fetches. -/
def mgtCycle (b : Block) : Block :=
  let b := { b with
    evt := { b.evt with cycle := if b.start.coldLow then 0 else (b.evt.cycle + 1) % 2 ^ 48 }
    start := portCycles { b.start with inStage := b.start.inStage + 1 }
    ports := Table.mapAll Port.fresh b.ports restPins
    host := { b.host with ack := false }
    power := { b.power with estValid := false }
    setNow := [] }
  bootFetch ((b.lee.regions.map (·.1)).foldl zeroCycle b)

end Sys2Proof.Machine
end

