-- ==== Sys2Proof/Machine/Power.lean ====
section
/-! DEFINITION. Power and thermal: estimates, budget, limits, droop, sensors, Hold and the gating of Currents (R384 to
R400). -/

namespace Sys2Proof.Machine

/-! ## Estimates (R392) -/

/-- R392: the estimate of a domain for one microsecond, and its place on PWR_EST_DATA. -/
def estimateTick (d : Nat) (amps : BitVec 16) (b : Block) : Block :=
  if 13 ≤ d ∨ b.start.phase = .reset then b
  else { b with power := { b.power with
    est := Table.put 0 b.power.est d amps.toNat
    estDom := some d
    estValid := true
    estSum := Table.put 0 b.power.estSum d (Table.get 0 b.power.estSum d + amps.toNat)
    estCount := Table.put 0 b.power.estCount d (Table.get 0 b.power.estCount d + 1) } }

def execEstimateTick (d : Nat) (amps : BitVec 16) (s : State) := onBlock (estimateTick d amps) s

/-- The mean power of a domain over the interval in units of 0.5 W: 0.1 A at 0.75 V is 0.15 units (R384, R388). A domain
without an estimate in the interval counts its latest one. -/
def meanPower (p : Power) (d : Nat) : Rat :=
  let n := Table.get 0 p.estCount d
  if n = 0 then (3 * Table.get 0 p.est d : Nat) / 20
  else (3 * Table.get 0 p.estSum d : Nat) / (20 * n : Nat)

/-! ## The budget (R388, R389) -/

/-- A budget of 0 or above 1,560 counts as 1,560. -/
def halfWatts (v : Nat) : Nat := if v = 0 ∨ 1560 < v then 1560 else v

/-- The effective budget B (R388). -/
def budgetOf (p : Power) : Nat := min (halfWatts p.budgetPin) (halfWatts p.budgetSw)

/-- The steps of a Gale PLL, highest first (R386). -/
def galeSteps : List Nat := (List.range 25).map (fun i => 3600 - 100 * i)

/-- Power of Current n at a step, from its mean at the step in force. -/
def scaled (b : Block) (n f : Nat) : Rat := meanPower b.power n * (f : Rat) / ((getGale b n).cur : Rat)

/-- The block's draw if each Current ran at a step. -/
def drawAt (b : Block) (f : Nat → Nat) : Rat :=
  meanPower b.power 12 + ((List.range 8).map (fun n => scaled b n (f n) - meanPower b.power n)).foldl (fun a x => a + x) 0

/-- The step of Current n under a budget ceiling. -/
def stepUnder (g : Gale) (budget : Nat) : Nat := max 1200 (min g.max (min budget (min g.limitCeil g.thermCeil)))

/-- The highest step that keeps a draw within a budget. -/
def fitStep (fits : Nat → Bool) : Option Nat := galeSteps.find? fits

/-- R388: the budget ceiling at the end of an interval. -/
def budgetStep (b : Block) : Block :=
  let p := b.power
  let B : Rat := budgetOf p
  if B < meanPower p 12 then
    match fitStep (fun f => decide (drawAt b (fun n => min f (getGale b n).cur) ≤ B)) with
    | some f => { b with power := { p with budgetCeil := min p.budgetCeil f } }
    | none => report { b with power := { p with budgetCeil := 1200, short := true } } 0xC001 0x821 0
  else
    let up := p.budgetCeil + 100
    if decide (up ≤ 3600) && !p.droopPin && decide (drawAt b (fun n => stepUnder (getGale b n) up) ≤ B) then
      { b with power := { p with budgetCeil := up, short := false } }
    else { b with power := { p with short := false } }

/-- The Current runs: it is enabled and not Gated (R387). -/
def clocked (b : Block) (n : Nat) : Bool := curUsable b n

/-- R389: the limit ceiling of Current n. -/
def limitStep (b : Block) (n : Nat) : Block :=
  let g := getGale b n
  let L : Rat := g.limit
  if !clocked b n then b
  else if g.limit = 0 then putGale b n { g with limitCeil := 3600 }
  else if L < meanPower b.power n then
    match fitStep (fun f => decide (scaled b n (min f g.cur) ≤ L)) with
    | some f => putGale b n { g with limitCeil := min g.limitCeil f }
    | none => putGale { b with power := { b.power with short := true } } n { g with limitCeil := 1200 }
  else
    let up := g.limitCeil + 100
    if decide (up ≤ 3600) && !b.power.droopPin &&
        decide (scaled b n (max 1200 (min g.max (min b.power.budgetCeil (min up g.thermCeil)))) ≤ L) then
      putGale b n { g with limitCeil := up }
    else b

/-! ## Sensors (R394, R395) -/

/-- A sensor governs a Current. -/
def governs (s n : Nat) : Bool :=
  if s < 24 then s / 3 == n
  else if s < 28 then (s - 24) / 2 == curHalf n
  else if s < 30 then true
  else s - 30 == curHalf n

/-- The reading of a valid sensor. -/
def reading (b : Block) (s : Nat) : Option Nat :=
  match Table.find b.power.temps s with
  | some (true, v) => some v
  | _ => none

/-- A temperature in °C from 0 up as a reading: 0.25·v − 64 (R399). -/
def degrees (t : Nat) : Nat := 4 * (t + 64)

/-- The first valid sensor that governs Current n and reads 100 °C or more. -/
def hotSensor (b : Block) (n : Nat) : Option Nat :=
  (List.range 32).find? (fun s => governs s n && (reading b s).any (fun v => decide (degrees 100 ≤ v)))

/-- R395: the thermal ceiling of Current n; the first fall in a job records 0x822. -/
def thermStep (b : Block) (n : Nat) : Block :=
  let g := getGale b n
  if !clocked b n then b
  else match hotSensor b n with
    | some s =>
      if g.thermCeil ≤ 1200 then b
      else
        let b := putGale b n { g with thermCeil := g.thermCeil - 100 }
        if !b.job.running || b.job.throttleOnce then b
        else report { b with job := { b.job with throttleOnce := true } } (0xC200 + n) 0x822
          (BitVec.ofNat 128 ((reading b s).getD 0))
    | none =>
      if (List.range 32).all (fun s => !governs s n || (reading b s).all (fun v => decide (v < degrees 97))) then
        putGale b n { g with thermCeil := min 3600 (g.thermCeil + 100) }
      else b

/-- R387: the step of Current n. -/
def galeStep (b : Block) (n : Nat) : Block :=
  if clocked b n then putGale b n { getGale b n with target := stepUnder (getGale b n) b.power.budgetCeil } else b

/-- R387: an interval of 100 µs ends. In Hold no Current takes a step. -/
def powerInterval (budget : BitVec 16) (b : Block) : Block :=
  if b.start.phase = .reset then b
  else
    let b := { b with power := { b.power with budgetPin := budget.toNat } }
    let b := if b.power.hold then b else
      let b := budgetStep b
      let b := (List.range 8).foldl limitStep b
      let b := (List.range 8).foldl thermStep b
      (List.range 8).foldl galeStep b
    { b with power := { b.power with estSum := [], estCount := [] } }

def execPowerInterval (budget : BitVec 16) (s : State) := onBlock (powerInterval budget) s

/-- R386: a glide ends. -/
def glideEnd (n : Nat) (b : Block) : Block :=
  if n < 8 then putGale b n { getGale b n with cur := (getGale b n).target } else b

def execGlideEnd (n : Nat) (s : State) := onBlock (glideEnd n) s

/-! ## Droop (R390) -/

/-- R390: PWR_DROOP_N falls. -/
def droop (b : Block) : Block :=
  if b.power.droopPin then b
  else
    let b := { b with power := { b.power with droopPin := true } }
    if b.start.phase = .reset then b
    else report { b with power := { b.power with droop := 1, droops := satAdd 16 b.power.droops 1 } } 0xC001 0x820 0

def execDroop (s : State) := onBlock droop s

/-- R390: a stage of the restoration, with the pin high for 1 µs. -/
def droopRestore (b : Block) : Block :=
  { b with power := { b.power with
    droopPin := false
    droop := if b.power.droop = 0 ∨ 4 ≤ b.power.droop then 0 else b.power.droop + 1 } }

def execDroopRestoreStage (s : State) := onBlock droopRestore s

/-! ## Readings and Hold (R394, R396) -/

/-- R394: a sensor reads, or fails until cold reset. -/
def sensorRead (s : Nat) (v : BitVec 11) (ok : Bool) (b : Block) : Block :=
  let failed : Bool := match Table.find b.power.temps s with
    | some (false, _) => true
    | _ => false
  if 32 ≤ s || failed || b.start.phase == .reset then b
  else if ok && decide (96 ≤ v.toNat) && decide (v.toNat ≤ degrees 150) then
    { b with power := { b.power with temps := Table.add b.power.temps s (true, v.toNat) } }
  else report { b with power := { b.power with temps := Table.add b.power.temps s (false, v.toNat) } } (0xC100 + s) 0x825 0

def execSensorRead (s : Nat) (v : BitVec 11) (ok : Bool) (st : State) := onBlock (sensorRead s v ok) st

/-- A link enters HOLD (R396). -/
def holdLink (b : Block) (l : Nat) : Block :=
  if linkPresent b l && (getLink b l).state == 2 then updLink b l (fun k => { k with state := 3, pause := true }) else b

/-- R396: a valid sensor reads 110 °C or more. -/
def thermalHold (s : Nat) (b : Block) : Block :=
  match reading b s with
  | none => b
  | some v =>
    if v < degrees 110 ∨ b.power.hold = true ∨ b.start.phase = .reset then b
    else
      let b := { b with power := { b.power with hold := true, holds := satAdd 16 b.power.holds 1, vaneOn := [] } }
      (List.range 24).foldl holdLink (report b (0xC100 + s) 0x823 (BitVec.ofNat 128 v))

def execThermalHold (sensor : Nat) (s : State) := onBlock (thermalHold sensor) s

/-- A link that Hold alone keeps in HOLD is UP again, and goes on to retire a lane that has qualified (R301). -/
def resumeLink (b : Block) (l : Nat) : Block :=
  let k := getLink b l
  if linkPresent b l && k.state == 3 && k.retiring.isNone then
    nextRetire (updLink b l (fun k => { { k with state := 2 } with pause := nextPause { k with state := 2 } })) l
  else b

/-- R396: the block leaves Hold once every valid sensor has read below 100 °C for 10 ms. -/
def holdExit (b : Block) : Block :=
  if !b.power.hold || (List.range 32).any (fun s => (reading b s).any (fun v => decide (degrees 100 ≤ v))) then b
  else
    let b := { b with power := { b.power with hold := false } }
    let b := (List.range 8).foldl (fun b n =>
      let g := { getGale b n with thermCeil := 1200 }
      if !curEnabled b n then b
      else putGale b n (if clocked b n then { g with cur := 1200, target := 1200 } else g)) b
    let b := (List.range 24).foldl resumeLink b
    if b.job.running && !b.job.stopped then queueVanes b b.job.eddies else b

def execHoldExit (s : State) := onBlock holdExit s

/-- R399: PWR.CTRL.CLR_COUNTS. -/
def pwrClr (b : Block) : Block := { b with power := { b.power with droops := 0, holds := 0 } }

def execPwrCtrlClrCounts (s : State) := onBlock pwrClr s

/-- PWR.STATUS.THROTTLE (R395); a Current that is not enabled has no ceiling (R387). -/
def throttled (b : Block) : Bool := (List.range 8).any (fun n => curEnabled b n && decide ((getGale b n).thermCeil < 3600))

/-- PWR_HOT_N is low (R367, R395, R396). -/
def hotPin (b : Block) : Bool := b.start.phase != .reset && (b.power.hold || throttled b)

/-! ## Gating (R397) and the budget command (R389) -/

/-- The refusals of 0x824 that both commands share. -/
def gateRefused (b : Block) (n : Nat) : Bool := b.job.running || b.power.hold || inCalm b || n == 0 || !curEnabled b n

/-- A persistent Region lies in the Current. -/
def persistentIn (b : Block) (n : Nat) : Bool := b.lee.regions.any (fun p => p.2.persistent && p.2.cur == n)

/-- `current_gate`. -/
def currentGate (e : BitVec 512) (src : Nat) (b : Block) : Block :=
  let n := fld (cmdArg e 0) 2 0
  let retain := bit (cmdArg e 0) 8
  if gateRefused b n || (!retain && persistentIn b n) then finishCmd b src 0x824 0 0
  else if !curUsable b n then finishCmd b src 0 0 0
  else finishCmd (recordChange { b with power := { b.power with
    gated := Table.put 0 b.power.gated n (if retain then 1 else 2) } }) src 0 0 0

def execCurrentGate (src : Nat) (s : State) := onBlock (command 0x17 currentGate src) s

/-- `current_ungate`: Lee is zeroed unless it was retained. -/
def currentUngate (e : BitVec 512) (src : Nat) (b : Block) : Block :=
  let n := fld (cmdArg e 0) 2 0
  if gateRefused b n then finishCmd b src 0x824 0 0
  else match Table.get 0 b.power.gated n with
    | 0 => finishCmd b src 0 0 0
    | k =>
      let b := if k = 2 then leeZero b (n * 2 ^ 31) (2 ^ 31) else b
      finishCmd (recordChange { b with power := { b.power with gated := Table.put 0 b.power.gated n 0 } }) src 0 0 0

def execCurrentUngate (src : Nat) (s : State) := onBlock (command 0x18 currentUngate src) s

/-- `power_budget` (R389, R432). -/
def powerBudget (e : BitVec 512) (src : Nat) (b : Block) : Block :=
  let w := fld (cmdArg e 0) 9 0
  if w = 0 ∨ 780 < w then finishCmd b src 0x838 0 0
  else
    let b := { b with power := { b.power with
      budgetSw := 2 * w, gale := Table.mapAll Gale.fresh b.power.gale (fun g => { g with limit := 0 }) } }
    finishCmd b src 0 0 0

def execPowerBudget (src : Nat) (s : State) := onBlock (command 0x16 powerBudget src) s

end Sys2Proof.Machine
end

