-- ==== Sys2Proof/Machine/Security.lean ====
section
/-! DEFINITION. Key slots, lifecycle transitions, rollback and revocation fuses, and debug requests (R401 to R418). -/

namespace Sys2Proof.Machine

/-! ## Key slots (R409 to R411) -/

/-- A link names a key slot for a direction that is encrypting or, while it trains, is to be (R410). -/
def linkNames (b : Block) (k : Nat) (x : Nat × Link) : Bool :=
  linkPresent b x.1 && x.2.state != 0 &&
    (((x.2.encTx || (x.2.state == 1 && x.2.txEn)) && x.2.txSlot == k) ||
      ((x.2.encRx || (x.2.state == 1 && x.2.rxEn)) && x.2.rxSlot == k))

/-- A link key slot is in use. -/
def slotInUse (b : Block) (k : Nat) : Bool := b.links.any (linkNames b k)

/-- Key and salt put into slot k, or the key into W1 for slot 0x10. -/
def putKey (b : Block) (k : Nat) (key : BitVec 256) (salt : Word) : Block :=
  if k < 16 then { b with sec := { b.sec with slots := Table.add b.sec.slots k (key, salt) } }
  else if k = 16 then { b with sec := { b.sec with w1 := some key } }
  else b

/-- A word of SEC.KEY_k_w. -/
def keyReg (b : Block) (k w : Nat) : Word := Table.get 0 b.sec.keyRegs (16 * k + w)

/-- Words 0 to 7 of SEC.KEY_k_w as a key. -/
def keyWords (b : Block) (k : Nat) : BitVec 256 :=
  BitVec.ofNat 256 (((List.range 8).map (fun w => (keyReg b k w).toNat * 2 ^ (32 * w))).sum)

/-- The key registers may be written through the management port: in BLANK and DEV (R410). -/
def keysWritable (b : Block) : Bool := decide (b.sec.state ≤ 1)

/-- R410: SEC.KEY_COMMIT. Outside BLANK and DEV the write has no effect; a slot in use keeps its key (0x720). -/
def keyCommit (v : Word) (b : Block) : Block :=
  let k := fld v.toNat 4 0
  if !v.getLsbD 31 || !keysWritable b || slotInUse b k then b
  else putKey b k (keyWords b (k % 16)) (if k < 16 then keyReg b k 8 else 0)

def execKeyCommit (v : BitVec 32) (s : State) := onBlock (keyCommit v) s

/-- The 40-byte blob of `key_load`: A2 to A6. -/
def blobOf (e : BitVec 512) : List Nat := toNats (leBytes 40 (fld e.toNat 511 192))

/-- `key_load` (R410). -/
def keyLoad (e : BitVec 512) (src : Nat) (b : Block) : Block :=
  let a := cmdArg e 0
  let k := fld a 4 0
  let wrap := bit a 8
  if decide (16 < k) || (k == 16 && wrap) then finishCmd b src 0x838 0 0
  else if slotInUse b k then finishCmd b src 0x720 0 0
  else match (if wrap then b.sec.w1 else some Config.deviceKey) with
    | none => finishCmd b src 0x721 0 0
    | some w =>
      match kwUnwrap (toNats (leBytes 32 w.toNat)) (blobOf e) with
      | none => finishCmd b src 0x721 0 0
      | some key =>
        finishCmd (putKey b k (BitVec.ofNat 256 (leNat (ofNats key))) (BitVec.ofNat 32 (cmdArg e 1))) src 0 0 0

def execKeyLoad (src : Nat) (s : State) := onBlock (command 0x15 keyLoad src) s

/-- R411: every key slot and W1 cleared; a link whose encrypting direction loses its slot goes DOWN with 0x404. -/
def clearKeys (b : Block) : Block :=
  let lost := (List.range 24).filter (fun l =>
    let k := getLink b l
    linkPresent b l && k.state != 0 && (k.encTx || k.encRx))
  lost.foldl takeDown { b with sec := { b.sec with slots := [], w1 := none } }

/-! ## Commands that blow fuses (R402, R403, R407, R408) -/

/-- Windsock runs a command that can blow fuses, under the conditions of `command`. -/
def commandF (op : Nat) (f : BitVec 512 → Nat → Fuses → Block → Fuses × Block) (src : Nat) (s : State) :
    Host.Outcome State Fault Refusal :=
  let b := s.blk
  match Table.find b.host.running src with
  | none => .next s
  | some c =>
    if cmdOpcode c.entry != op || c.started || !inOrder b src c || (needsLee c.entry && b.power.hold) then .next s
    else if !argsClean c.entry then .next { s with blk := finishCmd b src 0x838 0 0 }
    else
      let t := f c.entry src s.fuses b
      .next { s with fuses := t.1, blk := t.2 }

/-- The fuses of a lifecycle group tried in order until five read blown (R402); bit i of blows says that fuse i blows
when it is tried. -/
def tryFuses (blows : BitVec 8) (g : Nat) (fz : Fuses) : Nat → Fuses
  | 0 => fz
  | i + 1 =>
    let fz := tryFuses blows g fz i
    if decide (groupCount fz g < 5) && blows.getLsbD i then
      { fz with lifecycle := fz.lifecycle ||| BitVec.ofNat 32 (2 ^ (8 * g + i)) }
    else fz

/-- The group's fuses after a transition. -/
def blowGroup (fz : Fuses) (g : Nat) (blows : BitVec 8) : Fuses := tryFuses blows g fz 8

/-- The end of a transition: 0x741 when fewer than five read blown. -/
def endTransition (src g : Nat) (fz : Fuses) (b : Block) : Block :=
  finishCmd b src (if 5 ≤ groupCount fz g then 0 else 0x741) 0 0

/-- A transition is refused: a job runs, or R403 does not pair the state in force with the new one. -/
def transitionRefused (b : Block) (from' : List Nat) : Bool := b.job.running || !from'.contains b.sec.state

/-- Ninety-six bytes at a Lee endpoint, none of them marked. -/
def bytes96 (b : Block) (x : Nat) : Option (List Nat) :=
  match leeEp b false x 96 with
  | none => none
  | some (_, a) =>
    let d := (leeBytesAt b a 96).1
    if d.any (·.2) then none else some (toNats (d.map (·.1)))

/-- `lifecycle_prod`. -/
def lifecycleProd (blows : BitVec 8) (e : BitVec 512) (src : Nat) (fz : Fuses) (b : Block) : Fuses × Block :=
  if transitionRefused b [1] then (fz, finishCmd b src 0x740 0 0)
  else if bit (cmdArg e 0) 0 then
    match bytes96 b (cmdArg e 1) with
    | none => (fz, finishCmd b src 0x838 0 0)
    | some key =>
      let fz := blowGroup fz 1 blows
      (if 5 ≤ groupCount fz 1 then
        { fz with ownerHash := fz.ownerHash ||| BitVec.ofNat 384 (sha384 key), owner := true } else fz,
        endTransition src 1 fz b)
  else
    let fz := blowGroup fz 1 blows
    (fz, endTransition src 1 fz b)

def execLifecycleProd (src : Nat) (blows : BitVec 8) (s : State) := commandF 0x19 (lifecycleProd blows) src s

/-- The RMA token verifies under a root key that is not revoked. -/
def tokenOk (fz : Fuses) (token : List Nat) : Bool :=
  (List.range 4).any (fun i =>
    !fz.revoked.getLsbD i && verifies (Config.rootKey i) (sha384 (devidBytes fz ++ [0x52])) (pairOf token))

/-- `lifecycle_rma`. -/
def lifecycleRma (blows : BitVec 8) (e : BitVec 512) (src : Nat) (fz : Fuses) (b : Block) : Fuses × Block :=
  if transitionRefused b [1, 2] then (fz, finishCmd b src 0x740 0 0)
  else match bytes96 b (cmdArg e 1) with
    | none => (fz, finishCmd b src 0x838 0 0)
    | some token =>
      if !tokenOk fz token || (b.sec.state == 2 && fz.owner && !b.sec.ownerGrant) then
        (fz, finishCmd b src 0x740 0 0)
      else
        let fz := blowGroup fz 2 blows
        (fz, endTransition src 2 fz b)

def execLifecycleRma (src : Nat) (blows : BitVec 8) (s : State) := commandF 0x1A (lifecycleRma blows) src s

/-- `lifecycle_scrap`. -/
def lifecycleScrap (blows : BitVec 8) (_e : BitVec 512) (src : Nat) (fz : Fuses) (b : Block) : Fuses × Block :=
  if transitionRefused b [0, 1, 2, 3] || (decide (2 ≤ b.sec.state) && !b.sec.ownerGrant && !b.sec.eutricGrant) then
    (fz, finishCmd b src 0x740 0 0)
  else
    let fz := blowGroup fz 3 blows
    (fz, endTransition src 3 fz (clearKeys b))

def execLifecycleScrap (src : Nat) (blows : BitVec 8) (s : State) := commandF 0x1B (lifecycleScrap blows) src s

/-- The lowest rollback fuses blown until the count reaches a target; the first n fuses are considered. -/
def blowRollback (t : Nat) (fz : Fuses) : Nat → Fuses
  | 0 => fz
  | i + 1 =>
    let fz := blowRollback t fz i
    if rollbackCount fz < t then { fz with rollback := fz.rollback ||| BitVec.ofNat 64 (2 ^ i) } else fz

/-- `rollback_advance` (R407); an SVN is at most 64 (R404, log 54). -/
def rollbackAdvance (e : BitVec 512) (src : Nat) (fz : Fuses) (b : Block) : Fuses × Block :=
  let t := fld (cmdArg e 0) 6 0
  if min 64 b.start.fwSvn < t ∨ t < rollbackCount fz then (fz, finishCmd b src 0x742 0 0)
  else (blowRollback t fz 64, finishCmd b src 0 0 0)

def execRollbackAdvance (src : Nat) (s : State) := commandF 0x1C rollbackAdvance src s

/-- `root_revoke` (R408). -/
def rootRevoke (e : BitVec 512) (src : Nat) (fz : Fuses) (b : Block) : Fuses × Block :=
  let i := fld (cmdArg e 0) 1 0
  let r := fz.revoked ||| BitVec.ofNat 4 (2 ^ i)
  if (b.start.fw && b.start.fwRoot == i) || r == 0xF then (fz, finishCmd b src 0x740 0 0)
  else ({ fz with revoked := r }, finishCmd b src 0 0 0)

def execRootRevoke (src : Nat) (s : State) := commandF 0x1D rootRevoke src s

/-! ## Debug requests (R415, R416) -/

/-- SEC.DBG_STATUS.BUSY. -/
def dbgBusy (b : Block) : Bool := b.sec.req.isSome || b.sec.grant

/-- A request fails. -/
def failReq (b : Block) (code : Nat) : Block :=
  { b with sec := { b.sec with last := code, fails := satAdd 8 b.sec.fails 1 } }

/-- The digest that the response signs: nonce, DEVID, LEVEL and STATE. -/
def dbgDigest (fz : Fuses) (b : Block) (level : Nat) : Nat :=
  sha384 (wordBytes 48 b.sec.nonce.toNat ++ devidBytes fz ++ [level, b.sec.state])

/-- What the verification of a request will find: 0, or 0x710. -/
def dbgVerify (fz : Fuses) (b : Block) (level key : Nat) : Nat :=
  let pub := wordBytes 96 b.sec.pub.toNat
  let k := if key = 0 then Config.debugKey else pairOf pub
  let known := key == 0 || (fz.owner && sha384 pub == fz.ownerHash.toNat)
  if known && verifies k (dbgDigest fz b level) (pairOf (wordBytes 96 b.sec.resp.toNat)) then 0 else 0x710

/-- R415: a write of SEC.DBG_REQ. Every GO draws a fresh nonce; a request that is refused at once fails, but for a
locked one, which FAILS does not count (log 50). -/
def dbgReq (v : Word) (fz : Fuses) (b : Block) : Block :=
  let level := fld v.toNat 9 8
  let key := b2n (v.getLsbD 0)
  if !v.getLsbD 31 || b.start.phase == .reset then b
  else
    let r :=
      if 8 ≤ b.sec.fails then { b with sec := { b.sec with last := 0x713 } }
      else if dbgBusy b then failReq b 0x714
      else if level = 0 || level == 3 || !levelAllowed b level key then failReq b 0x711
      else if !b.sec.nonceFresh then failReq b 0x712
      else { b with sec := { b.sec with req := some (level, key, dbgVerify fz b level key) } }
    drawNonce r

def execDbgReq (v : BitVec 32) (s : State) := onBlockF (dbgReq v) s

/-- A level is granted with a key. -/
def setGrant (b : Block) (level key : Nat) : Block :=
  settleLevel { b with sec := { b.sec with
    level := level
    req := none
    grant := false
    last := 0
    ownerGrant := key == 1
    eutricGrant := key == 0 } }

/-- Streams and COD jobs that still run outside a job. -/
def unitsBusy (b : Block) : Bool :=
  b.streams.any (fun p => !p.2.armed.isEmpty) || b.codecs.any (fun p => p.2.run.isSome || !p.2.queue.isEmpty)

/-- A Region is being zeroed or armed. -/
def regionsBusy (b : Block) : Bool := b.lee.regions.any (fun p => p.2.zero != .none || !p.2.armReqs.isEmpty)

/-- Every Region freed and Lee zeroed, the Vane registers, CSUM and Slots cleared, the keys cleared, the level Full (R416
steps 2 to 4). -/
def openFull (b : Block) (key : Nat) : Block :=
  let b := { b with
    lee := { b.lee with regions := [], mem := [], poison := [], err := [] }
    eddies := Table.mapAll Eddy.fresh b.eddies (fun x => { x with vanes := [], slots := [], accErr := [] }) }
  setGrant (clearKeys b) 2 key

/-- A grant of Full in PROD or RMA goes on: not in Hold; the job stops with 0x715, and what runs beside it is ended. -/
def goOnFull (b : Block) (key : Nat) : Block :=
  if b.power.hold then b
  else if b.job.running then
    (if b.job.stop.isNone then stopJob (report b 0xB000 0x715 0) 0x715 else b)
  else if unitsBusy b then stopCodecs ((b.streams.map (·.1)).foldl disarm b)
  else if regionsBusy b then b
  else openFull b key

/-- R416: verification ends, or a grant of Full goes on. -/
def debugGrant (b : Block) : Block :=
  match b.sec.req with
  | none => b
  | some (level, key, code) =>
    if b.sec.grant then goOnFull b key
    else if code ≠ 0 then failReq { b with sec := { b.sec with req := none } } code
    else if level = 2 ∧ (b.sec.state = 2 ∨ b.sec.state = 3) then
      goOnFull { b with sec := { b.sec with grant := true } } key
    else setGrant b level key

def execDebugGrant (s : State) := onBlock debugGrant s

/-- R415: NEW_NONCE. -/
def newNonce (b : Block) : Block := if b.start.phase = .reset then b else drawNonce b

def execNewNonce (s : State) := onBlock newNonce s

/-- R416: DROP. -/
def dbgDrop (b : Block) : Block :=
  { b with sec := { b.sec with
    level := freeLevel b.sec.state b.start.phase, ownerGrant := false, eutricGrant := false } }

def execDbgDrop (s : State) := onBlock dbgDrop s

/-- R415: the nonce expires. -/
def nonceExpiry (b : Block) : Block := { b with sec := { b.sec with nonceFresh := false } }

def execNonceExpiry (s : State) := onBlock nonceExpiry s

end Sys2Proof.Machine
end

