-- ==== Sys2Proof/Machine/Registers.lean ====
section
/-! DEFINITION. The register space: what a read of each register returns, what a write does, and the management port
(R5 to R8, R22, R95, R96, R127, R155, R192, R193, R227, R228, R249, R307, R308, R332, R356 to R358, R382, R399, R422,
R424, R425, R440). -/

namespace Sys2Proof.Machine

/-! ## Windows (R424) -/

/-- A window of the register space. -/
inductive Win where
  | wsk
  | dsp
  | start
  | sec
  | cur (n : Nat)
  | link (l : Nat)
  | ranges
  | port (f : Nat)
  | seam
deriving DecidableEq, Repr

/-- The window of an address, and the offset in it. -/
def winOf (a : Nat) : Option (Win × Nat) :=
  if a < 0x100000 then some (.wsk, a)
  else if a < 0x200000 then some (.dsp, a - 0x100000)
  else if a < 0x300000 then some (.start, a - 0x200000)
  else if a < 0x400000 then some (.sec, a - 0x300000)
  else if a < 0x1000000 then none
  else if a < 0x1800000 then some (.cur ((a - 0x1000000) / 0x100000), a % 0x100000)
  else if a < 0x2000000 then none
  else if a < 0x2180000 then some (.link ((a - 0x2000000) / 0x10000), a % 0x10000)
  else if a < 0x21F0000 then none
  else if a < 0x2200000 then some (.ranges, a - 0x21F0000)
  else if a < 0x3000000 then none
  else if a < 0x3040000 then some (.port ((a - 0x3000000) / 0x1000), a % 0x1000)
  else if a < 0x4000000 then none
  else if a < 0x4010000 then some (.seam, a - 0x4000000)
  else none

/-- The index of a register group at a base with a stride and a number of members. -/
def at' (off base stride count : Nat) : Option Nat :=
  if base ≤ off ∧ (off - base) % stride = 0 ∧ (off - base) / stride < count then some ((off - base) / stride) else none

/-- Word w of a number. -/
def wordAt (x w : Nat) : Nat := fld x (32 * w + 31) (32 * w)

/-! ## Windsock window (R353, R356, R357, R440) -/

/-- The 256 bits of a record (R348). -/
def recordBits (r : EventRecord) : Nat :=
  r.seq.toNat + r.stamp % 2 ^ 48 * 2 ^ 32 + r.report.source % 2 ^ 16 * 2 ^ 80 + r.report.cls % 16 * 2 ^ 96 +
    r.report.code % 4096 * 2 ^ 100 + r.report.count % 2 ^ 16 * 2 ^ 112 + r.report.detail.toNat * 2 ^ 128

/-- WSK.STATUS.BEAT: ms since firmware entry. -/
def beat (b : Block) : Nat :=
  if b.start.fw then (b.evt.cycle + 2 ^ 48 - b.start.fwEntry) % 2 ^ 48 / (1000 * b.start.mgtMhz) % 2 ^ 30 else 0

/-- A record or a capture by its place; 0 where none stands. -/
def recordWordAt (t : Table EventRecord) (i w : Nat) : Nat := ((Table.find t i).map (fun r => wordAt (recordBits r) w)).getD 0

def readWsk (b : Block) (o : Nat) : Nat :=
  match o with
  | 0 => Config.eutricPen.toNat
  | 4 => b2n b.start.fw * 2 ^ 31 + b2n b.start.monitor * 2 ^ 30 + beat b
  | 0x1000 => b.evt.wrSeq.toNat
  | 0x1004 => b.evt.rdSeq.toNat
  | 0x1008 => b.evt.lost
  | 0x100C => b2n b.evt.coalesceEn * 2 ^ 31 + b.evt.window
  | 0x1014 => b.evt.firstValid.toNat
  | 0x2020 => b.seam.xbarEast * 2 ^ 16 + b.seam.xbarWest
  | 0x2024 => b2n b.vaneAuto * 2 ^ 31 + b.vaneJobs
  | _ =>
    match at' o 0x1100 4 128, at' o 0x2000 4 8, at' o 0x2030 4 8, at' o 0x10000 4 32768 with
    | some i, _, _, _ => recordWordAt b.evt.first (i / 8) (i % 8)
    | _, some n, _, _ => (getCur b n).corrMat * 2 ^ 16 + (getCur b n).corrSwitch
    | _, _, some n, _ => (getCur b n).poisonCount
    | _, _, _, some i => recordWordAt b.evt.records (i / 8) (i % 8)
    | _, _, _, _ => 0

/-! ## Dispatcher window (R228, R440) -/

def readRing (x : Ring) (w : Nat) : Nat :=
  match w with
  | 0 => b2n x.en * 2 ^ 31 + x.irq * 2 ^ 28 + x.log2 * 2 ^ 24 + x.cmdRegion * 2 ^ 12 + x.cplRegion
  | 1 => x.cmdHead * 2 ^ 16 + x.cplHead
  | 2 => x.cplTail
  | _ => b2n x.stopped * 2 ^ 31 + x.err

def readDsp (b : Block) (o : Nat) : Nat :=
  match o with
  | 0x1100 => irqPend b * 2 ^ 8 + b.host.irqMask
  | 0x1104 => b.host.dropped * 2 ^ 16 + b2n b.host.notifyEn * 2 ^ 15 + b.host.notifyRing
  | 0x1108 => b.job.number.toNat
  | 0x1260 => b2n b.host.mboxBusy * 2 ^ 30 + b2n b.host.jobEnd * 2 ^ 29
  | 0x1300 => b.host.leeRegion
  | 0x1304 => b.host.leeOff
  | _ =>
    match at' o 0 4 256, at' o 0x1200 4 16, at' o 0x1240 4 8, at' o 0x2000 4 32 with
    | some i, _, _, _ => readRing (getRing b (i / 4)) (i % 4)
    | _, some w, _, _ => (b.host.mbox.toList.getD w 0).toNat
    | _, _, some w, _ => (b.host.mboxRes.toList.getD w 0).toNat
    | _, _, _, some i =>
      let x := getCtx b (i / 2)
      if i % 2 = 0 then b2n x.valid * 2 ^ 31 + x.region else x.entries
    | _, _, _, _ => 0

/-! ## Start, clocks and power (R379, R382, R399) -/

/-- The strap word in the layout of START.STRAPS. -/
def strapWord (s : Straps) : Nat :=
  s.boot * 2 ^ 30 + s.links * 2 ^ 25 + s.curmask * 2 ^ 17 + s.fabclk * 2 ^ 14 + b2n s.spares * 2 ^ 13 +
    s.mgtAddr * 2 ^ 6 + s.calmAfter * 2 ^ 3

/-- START.STATUS. -/
def startStatus (b : Block) : Nat :=
  let s := b.start
  let stage := match s.phase with
    | .stage n => n
    | .run => 7
    | _ => 0
  b2n (inCalm b) * 2 ^ 31 + b2n s.ready * 2 ^ 30 + stage * 2 ^ 24 + s.attempts * 2 ^ 16 + s.cause

/-- Word w of the cause record (R379). -/
def causeWord (b : Block) (w : Nat) : Nat :=
  let s := b.start
  let stamp := if inCalm b then s.calmStamp else 0
  match w with
  | 0 => s.cause + s.causeStage * 2 ^ 16 + s.attempts * 2 ^ 24
  | 1 => s.causeDetail.toNat
  | 2 => wordAt stamp 0
  | 3 => wordAt stamp 1
  | _ => (s.tries.getD (w - 4) 0).toNat

/-- PWR.TEMP_s. -/
def tempWord (b : Block) (s : Nat) : Nat :=
  match Table.find b.power.temps s with
  | some (ok, v) => b2n ok * 2 ^ 31 + v
  | none => 0

/-- PWR.GATED. -/
def gatedWord (b : Block) : Nat :=
  maskOf 8 (fun n => Table.get 0 b.power.gated n == 1) * 2 ^ 8 + maskOf 8 (fun n => Table.get 0 b.power.gated n != 0)

def readStart (b : Block) (o : Nat) : Nat :=
  let s := b.start
  let p := b.power
  match o with
  | 0 => startStatus b
  | 4 => strapWord s.straps
  | 8 => s.ovr.toNat
  | 0xC => b2n s.lock
  | 0x10 => s.minLinks
  | 0x14 => s.mgtMhz
  | 0x18 => s.portMhz
  | 0x1C => s.pll.toNat
  | 0x20 => s.watchdog
  | 0x100 => b2n p.hold * 2 ^ 31 + b2n (throttled b) * 2 ^ 30 + b2n (p.droop != 0) * 2 ^ 29 + b2n p.short * 2 ^ 28 + budgetOf p
  | 0x104 => p.budgetSw
  | 0x108 => p.droops * 2 ^ 16 + p.holds
  | 0x280 => gatedWord b
  | _ =>
    match at' o 0x40 4 12, at' o 0x110 4 8, at' o 0x130 4 8, at' o 0x150 4 13, at' o 0x200 4 32 with
    | some w, _, _, _, _ => causeWord b w
    | _, some n, _, _, _ => (getGale b n).cur * 2 ^ 16 + (getGale b n).max
    | _, _, some n, _, _ => (getGale b n).limit
    | _, _, _, some d, _ => Table.get 0 p.est d
    | _, _, _, _, some k => tempWord b k
    | _, _, _, _, _ => 0

/-! ## Security window (R422) -/

/-- SEC.LC. -/
def lcWord (fz : Fuses) (b : Block) : Nat :=
  b.sec.state * 2 ^ 29 + lifecycleOf fz * 2 ^ 26 + b2n fz.owner * 2 ^ 25 + b.sec.level * 2 ^ 23 +
    fz.revoked.toNat * 2 ^ 19 + rollbackCount fz

def readSec (fz : Fuses) (b : Block) (o : Nat) : Nat :=
  match o with
  | 0 => lcWord fz b
  | 4 => b.start.fwRoot * 2 ^ 10 + b2n b.start.fwOwner * 2 ^ 9 + b2n b.start.fw * 2 ^ 8 + b.start.fwSvn
  | 8 => wordAt fz.devid.toNat 0
  | 0xC => wordAt fz.devid.toNat 1
  | 0x10 => b.sec.zeroize
  | 0x64 => b2n (dbgBusy b) * 2 ^ 31 + b.sec.fails * 2 ^ 16 + b.sec.last
  | 0x1404 => maskOf 16 (slotInUse b) * 2 ^ 16 + maskOf 16 (fun k => (Table.find b.sec.slots k).isSome)
  | _ =>
    match at' o 0x20 4 16, at' o 0x80 4 12 with
    | some c, _ => (getCtx b c).tenant.getD 0
    | _, some w => wordAt b.sec.nonce.toNat w
    | _, _ => 0

/-! ## Eddies, codecs and Currents (R95, R96, R127, R155, R192, R193, R227, R249) -/

/-- EDDY.TILE_STATE. -/
def tileState (x : Eddy) : Nat :=
  ((List.range 8).map (fun n =>
    let v := getVane x n
    let sh := match v.shadow with
      | .empty => 0
      | .loading => 1
      | .full _ => 2
    (b2n v.active.isSome * 8 + b2n (v.active.any (fun t => t.fmt == 10)) * 4 + sh) * 2 ^ (4 * n))).sum

def readEddy (b : Block) (e o : Nat) : Nat :=
  let x := getEddy b e
  match o with
  | 0 => x.pc % 2 ^ 14 * 2 ^ 16 + x.calls.length * 2 ^ 8 + x.loops.length * 2 ^ 4 + eddyState b e
  | 4 => b2n x.faultValid * 2 ^ 31 + x.faultPc % 2 ^ 14 * 2 ^ 16 + x.faultCode
  | 8 => wordAt x.cycles.toNat 0
  | 0xC => x.cyclesHi.toNat
  | 0x10 => x.imemCorr
  | 0x40 => x.vaneMap.toNat
  | 0x44 => tileState x
  | 0x48 => x.longDrains * 2 ^ 16 + x.satDrains
  | 0x80 => wordAt b.job.seed.toNat 0
  | 0x84 => wordAt b.job.seed.toNat 1
  | 0x88 => x.nanCvt * 2 ^ 16 + x.satCvt
  | _ => ((at' o 0x50 4 9).map (fun v => Table.get 0 x.residue v)).getD 0

def readCod (k : Codec) (o : Nat) : Nat :=
  match o with
  | 0 => b2n k.run.isSome * 2 ^ 31 + k.queue.length * 2 ^ 16 + k.last
  | 4 => k.blocks.toNat
  | 8 => wordAt k.bytesIn.toNat 0
  | 0xC => k.inHi.toNat
  | 0x10 => wordAt k.bytesOut.toNat 0
  | 0x14 => k.outHi.toNat
  | 0x18 => k.errHi * 2 ^ 16 + k.errLo
  | _ => 0

def readFeed (k : Feed) : Nat := b2n k.bound * 2 ^ 31 + k.eddy * 2 ^ 27 + k.unit * 2 ^ 25 + k.bytes.length

def readStream (s : Stream) (o : Nat) : Nat :=
  match o with
  | 0 => b2n s.active.isSome * 2 ^ 31 + b2n s.pending.isSome * 2 ^ 30 + b2n s.stalled * 2 ^ 29 + b2n s.miss * 2 ^ 28 + s.last
  | 4 => if s.active.isSome then s.tte else 0x7FFFFFFF
  | 8 => wordAt (if s.active.isSome then s.delivered else s.done) 0
  | 0xC => s.doneHi
  | 0x24 => wordAt s.faultAddr 0
  | 0x28 => s.faultCtx * 2 ^ 25 + s.faultAddr / 2 ^ 32
  | 0x2C => s.misses * 2 ^ 16 + s.faults
  | _ => ((at' o 0x10 4 5).map (fun d => s.cursor.getD d 0)).getD 0

/-- The slot that a bank serves: its place among the banks in service (R231). -/
def bankSlot (b : Block) (e k : Nat) : Nat := ((banksInService b e).findIdx? (· == k)).getD 0

def readLee (b : Block) (n o : Nat) : Nat :=
  let c := getCur b n
  match o with
  | 0 => b2n c.scrubEn * 2 ^ 31 + c.scrubInterval
  | 4 => c.scrubPasses * 2 ^ 16 + c.scrubUncorr
  | 8 => c.retireThresh
  | 0xC => c.atomRefused * 2 ^ 16 + c.atomLate
  | _ =>
    match at' o 0x100 4 16, at' o 0x1000 4 768 with
    | some e, _ => bankCount b (16 * n + e)
    | _, some i =>
      let k := getBank b (16 * n + i / 48) (i % 48)
      k.corr * 2 ^ 16 + k.state * 2 ^ 8 + bankSlot b (16 * n + i / 48) (i % 48)
    | _, _ => 0

/-- CUR.GATE_FLAGS_g. -/
def gateFlags (k : Gate) : Nat :=
  k.barN % 256 * 2 ^ 24 + (if k.barUse then k.value else 0) % 256 * 2 ^ 16 + b2n k.ovf

/-- The Current-attached codec unit at an offset of the Current window, in the numbering of R349. -/
def curUnit (n o : Nat) : Option Nat :=
  if 0x90000 ≤ o ∧ o < 0x90400 then some (0x100 + 4 * n + (o - 0x90000) / 0x100)
  else if 0x90400 ≤ o ∧ o < 0x90600 then some (0x200 + 2 * n + (o - 0x90400) / 0x100)
  else none

/-- The window of a Current that is not powered reads as 0 (R13, R397). -/
def readCurrent (b : Block) (n o : Nat) : Nat :=
  if !curUsable b n then 0
  else if o < 0x80000 then readEddy b (16 * n + o / 0x8000) (o % 0x8000)
  else if o < 0x81000 then (getGate b (1024 * n + (o - 0x80000) / 4)).value
  else if o < 0x82000 then gateFlags (getGate b (1024 * n + (o - 0x81000) / 4))
  else match curUnit n o with
    | some u => readCod (getCodec b u) (o % 0x100)
    | none =>
      if 0x90800 ≤ o ∧ o < 0x90810 then readFeed (getFeed b (4 * n + (o - 0x90800) / 4))
      else if 0xA0000 ≤ o ∧ o < 0xA4000 then readStream (getStream b (256 * n + (o - 0xA0000) / 0x40)) (o % 0x40)
      else if 0xB0000 ≤ o then readLee b n (o - 0xB0000)
      else 0

/-! ## Links, ranges, ports and the seam (R22, R307, R308, R332, R358) -/

/-- The slot that LNK.CRYPT.TX_SLOT names: the one that a KEY_SWITCH has announced, if any. -/
def txSlotOf (k : Link) : Nat :=
  (((k.txSwitch.filter (fun s => s.2 == 2 ^ 64)).getLast?.or k.txSwitch.getLast?).map (·.1)).getD k.txSlot

/-- The link-attached codec unit at an offset of the link window. -/
def linkUnit (l o : Nat) : Option Nat :=
  if 0xC000 ≤ o ∧ o < 0xC100 then some l else if 0xC100 ≤ o ∧ o < 0xC200 then some (0x40 + l) else none

def readLane (x : Lane) : Nat := x.state * 2 ^ 30 + x.logical * 2 ^ 25 + x.retrains * 2 ^ 8 + x.high

/-- LNK.STATUS; a DOWN link uses no lane. -/
def linkStatus (k : Link) : Nat :=
  let lanes := if k.state = 0 then 0 else b2n (spareLaneUsed k) * 2 ^ 28 + activeLanes k * 2 ^ 16
  k.state * 2 ^ 29 + lanes + b2n k.encRx * 2 ^ 25 + b2n k.encTx * 2 ^ 24 + b2n k.pause

def readLinkRegs (k : Link) (o : Nat) : Nat :=
  match o with
  | 0 => linkStatus k
  | 0xA4 => b2n k.auto * 2 ^ 31 + k.minLanes * 2 ^ 8 + k.retrainLimit
  | 0xA8 => k.serLimit
  | 0xAC => k.serWindows
  | 0xB0 => k.cqOff * 2 ^ 16 + k.cqOn
  | 0xB4 => k.cqCut
  | 0xB8 => k.catchQ.length
  | 0xBC => k.cqCorr * 2 ^ 16 + k.cqDamaged
  | 0xC0 => k.cqLost
  | 0xC4 => k.replays * 2 ^ 16 + k.timeouts
  | 0xC8 => k.tags.countP (fun t => t.2.req.isSome)
  | 0xCC => k.tagTimeout
  | 0xD0 => k.credit3 * 2 ^ 24 + k.credit2 * 2 ^ 12 + k.credit1
  | 0xD4 => b2n k.txEn * 2 ^ 31 + b2n k.rxEn * 2 ^ 30 + k.authFail * 2 ^ 16 + txSlotOf k * 2 ^ 8 + k.rxSlot
  | _ =>
    match at' o 0x10 4 17, at' o 0x60 4 17 with
    | some i, _ => readLane (getLane k i)
    | _, some i => (getLane k i).corr.toNat
    | _, _ => 0

def readLink (b : Block) (l o : Nat) : Nat :=
  match linkUnit l o with
  | some u => readCod (getCodec b u) (o % 0x100)
  | none => readLinkRegs (getLink b l) o

def readRanges (b : Block) (o : Nat) : Nat :=
  if o = 0x400 then b.dups * 2 ^ 16 + b.unknown
  else match at' o 0 4 256 with
    | some r => (getRange b r).state * 2 ^ 30 + (getRange b r).landed
    | none => 0

def readPort (p : Port) (o : Nat) : Nat :=
  let six (f : Nat → Nat) : Nat := f 0 + f 1 * 2 ^ 6 + f 2 * 2 ^ 12 + f 3 * 2 ^ 18
  match o with
  | 0 => p.state * 2 ^ 30 + b2n p.peer * 2 ^ 29 + six (fun c => p.credits.getD c 0)
  | 4 => six (rxHeld p)
  | 8 => b2n p.dis * 2 ^ 31 + p.msgFlits
  | 0xC => p.flitsTx.toNat
  | 0x10 => p.flitsRx.toNat
  | 0x14 => p.corr * 2 ^ 16 + p.proto * 2 ^ 8 + p.resets
  | 0x18 => p.padded
  | _ => 0

def readSeam (b : Block) (o : Nat) : Nat :=
  match o with
  | 0x104 => seamWidth b
  | 0x108 => b2n b.seam.auto * 2 ^ 31 + b.seam.uncLimit * 2 ^ 24 + b.seam.corrLimit
  | 0x110 => b.seam.uncorr
  | _ =>
    match at' o 0 4 34 with
    | some s => (getCh b s).corr * 2 ^ 16 + (getCh b s).logical * 2 ^ 2 + seamState b s
    | none => 0

/-! ## A read (R5, R7, R424) -/

/-- The value that a read of an aligned address returns. -/
def regValue (fz : Fuses) (b : Block) (a : Nat) : Nat :=
  match winOf a with
  | none => 0
  | some (.wsk, o) => readWsk b o
  | some (.dsp, o) => readDsp b o
  | some (.start, o) => readStart b o
  | some (.sec, o) => readSec fz b o
  | some (.cur n, o) => readCurrent b n o
  | some (.link l, o) => readLink b l o
  | some (.ranges, o) => readRanges b o
  | some (.port f, o) => readPort (getPort b f) o
  | some (.seam, o) => readSeam b o

/-- A codec unit's high words latched by a read of their low words (R192). -/
def latchCod (b : Block) (u o : Nat) : Block :=
  if o = 8 then updCodec b u (fun k => { k with inHi := BitVec.ofNat 32 (k.bytesIn.toNat / 2 ^ 32) })
  else if o = 0x10 then updCodec b u (fun k => { k with outHi := BitVec.ofNat 32 (k.bytesOut.toNat / 2 ^ 32) })
  else b

/-- What a read of a register of a Current does besides: the counter of a running Task is settled and its high word
latched, as are the high words of codec units and streams (R95, R192, R227). -/
def latchCurrent (b : Block) (n o : Nat) : Block :=
  if !curUsable b n then b
  else if o < 0x80000 then
    let e := 16 * n + o / 0x8000
    if o % 0x8000 = 8 then
      let b := if (getEddy b e).run = .running then settleCycles b e else b
      updEddy b e (fun x => { x with cyclesHi := BitVec.ofNat 32 (x.cycles.toNat / 2 ^ 32) })
    else b
  else match curUnit n o with
    | some u => latchCod b u (o % 0x100)
    | none =>
      if 0xA0000 ≤ o ∧ o < 0xA4000 ∧ o % 0x40 = 8 then
        updStream b (256 * n + (o - 0xA0000) / 0x40) (fun s =>
          { s with doneHi := fld (if s.active.isSome then s.delivered else s.done) 47 32 })
      else b

/-- What a read does besides returning its value. -/
def regLatch (b : Block) (a : Nat) : Block :=
  match winOf a with
  | some (.cur n, o) => latchCurrent b n o
  | some (.link l, o) =>
    (match linkUnit l o with
     | some u => latchCod b u (o % 0x100)
     | none => b)
  | _ => b

/-- A read of an aligned address: its value, and the block after it. -/
def regRead (fz : Fuses) (b : Block) (a : Nat) : Nat × Block :=
  let b := regLatch b a
  (regValue fz b a, b)

/-! ## Writes of plain fields (R5) -/

def setWsk (b : Block) (o : Nat) (v : Word) : Block :=
  if o = 0x100C then { b with evt := { b.evt with coalesceEn := v.getLsbD 31, window := fld v.toNat 23 0 } }
  else if o = 0x2024 then { b with vaneAuto := v.getLsbD 31, vaneJobs := fld v.toNat 7 0 }
  else b

def setDsp (b : Block) (o : Nat) (v : Word) : Block :=
  if o = 0x1100 then { b with host := { b.host with irqMask := fld v.toNat 7 0 } }
  else if o = 0x1104 then { b with host := { b.host with notifyEn := v.getLsbD 15, notifyRing := fld v.toNat 5 0 } }
  else if o = 0x1300 then { b with host := { b.host with leeRegion := fld v.toNat 11 0 } }
  else if o = 0x1304 then { b with host := { b.host with leeOff := fld v.toNat 30 2 * 4 } }
  else match at' o 0x1200 4 16, at' o 0x2004 8 16 with
    | some w, _ => { b with host := { b.host with mbox := Vector.ofFn (fun i => if i.val = w then v else b.host.mbox[i]) } }
    | _, some c => putCtx b c { getCtx b c with entries := min 65536 (fld v.toNat 16 0) }
    | _, _ => b

/-- A step of 100 MHz between two bounds, rounded down. -/
def stepClamp (lo hi v : Nat) : Nat := max lo (min hi (v / 100 * 100))

def setStart (b : Block) (o : Nat) (v : Word) : Block :=
  let s := b.start
  let open' := !s.lock
  if o = 8 ∧ open' then { b with start := { s with ovr := v &&& 0xFFFFFFF9 } }
  else if o = 0x10 ∧ open' then { b with start := { s with minLinks := fld v.toNat 4 0 } }
  else if o = 0x14 ∧ open' then { b with start := { s with mgtMhz := max 100 (min 400 (fld v.toNat 8 0)) } }
  else if o = 0x18 ∧ open' then { b with start := { s with portMhz := stepClamp 900 1800 (fld v.toNat 10 0) } }
  else if o = 0x20 then { b with start := { s with watchdog := fld v.toNat 5 0 } }
  else if o = 0x104 then { b with power := { b.power with budgetSw := fld v.toNat 15 0 } }
  else match at' o 0x110 4 8, at' o 0x130 4 8 with
    | some n, _ => putGale b n { getGale b n with max := stepClamp 1200 3600 (fld v.toNat 11 0) }
    | _, some n => putGale b n { getGale b n with limit := fld v.toNat 15 0 }
    | _, _ => b

/-- Word w of a number of n words replaced. -/
def setWord (x n w : Nat) (v : Word) : Nat := setFld (x % 2 ^ (32 * n)) (32 * w + 31) (32 * w) v.toNat

def setSec (b : Block) (o : Nat) (v : Word) : Block :=
  if o = 0x10 ∧ b.start.lock = false then { b with sec := { b.sec with zeroize := min 2 (fld v.toNat 1 0) } }
  else match at' o 0x100 4 24, at' o 0x180 4 24, at' o 0x1000 4 256 with
    | some w, _, _ => { b with sec := { b.sec with pub := BitVec.ofNat 768 (setWord b.sec.pub.toNat 24 w v) } }
    | _, some w, _ => { b with sec := { b.sec with resp := BitVec.ofNat 768 (setWord b.sec.resp.toNat 24 w v) } }
    | _, _, some i =>
      if keysWritable b && decide (i % 16 < 9) then { b with sec := { b.sec with keyRegs := Table.put 0 b.sec.keyRegs i v } }
      else b
    | _, _, _ => b

def setCurrent (b : Block) (n o : Nat) (v : Word) : Block :=
  if !curUsable b n then b
  else if o = 0xB0000 then updCur b n (fun c => { c with scrubEn := v.getLsbD 31, scrubInterval := fld v.toNat 23 0 })
  else if o = 0xB0008 then updCur b n (fun c => { c with retireThresh := fld v.toNat 15 0 })
  else b

/-- LNK.CRYPT: a new transmit slot of an encrypting link is announced by KEY_SWITCH, which names its group when it is sent
(R305; logs 51, 155). -/
def setCrypt (k : Link) (v : Word) : Link :=
  let slot := fld v.toNat 11 8
  let k := { k with txEn := v.getLsbD 31, rxEn := v.getLsbD 30, rxSlot := fld v.toNat 3 0 }
  if k.encTx then
    if slot = txSlotOf k then k
    else { pushPkt k 3 ⟨.none, pktHeader 0x41 0 (slot * 2 ^ 68) 0⟩ with txSwitch := k.txSwitch ++ [(slot, 2 ^ 64)] }
  else { k with txSlot := slot }

def setLink (b : Block) (l o : Nat) (v : Word) : Block :=
  match o with
  | 0xA4 => updLink b l (fun k =>
      { k with auto := v.getLsbD 31, minLanes := fld v.toNat 12 8, retrainLimit := fld v.toNat 7 0 })
  | 0xA8 => updLink b l (fun k => { k with serLimit := v.toNat })
  | 0xAC => updLink b l (fun k => { k with serWindows := fld v.toNat 7 0 })
  | 0xB0 => updLink b l (fun k => { k with cqOff := fld v.toNat 31 16, cqOn := fld v.toNat 15 0 })
  | 0xB4 => updLink b l (fun k => { k with cqCut := fld v.toNat 15 0 })
  | 0xCC => updLink b l (fun k => { k with tagTimeout := fld v.toNat 23 0 })
  | 0xD4 => if b.start.lock then b else updLink b l (fun k => setCrypt k v)
  | _ => b

def setPort (b : Block) (f o : Nat) (v : Word) : Block :=
  if o = 8 then updPort b f (fun p => { p with msgFlits := fld v.toNat 12 0 }) else b

def setSeam (b : Block) (o : Nat) (v : Word) : Block :=
  if o = 0x108 then { b with seam := { b.seam with
    auto := v.getLsbD 31, uncLimit := fld v.toNat 27 24, corrLimit := fld v.toNat 23 0 } }
  else b

/-- R5: a write to a register without behaviour of its own. -/
def registerWrite (a v : Word) (b : Block) : Block :=
  if a.toNat % 4 ≠ 0 then b
  else match winOf a.toNat with
    | none => b
    | some (.wsk, o) => setWsk b o v
    | some (.dsp, o) => setDsp b o v
    | some (.start, o) => setStart b o v
    | some (.sec, o) => setSec b o v
    | some (.cur n, o) => setCurrent b n o v
    | some (.link l, o) => setLink b l o v
    | some (.ranges, _) => b
    | some (.port f, o) => setPort b f o v
    | some (.seam, o) => setSeam b o v

def execRegisterWrite (addr v : BitVec 32) (s : State) := onBlock (registerWrite addr v) s

/-! ## W1C bits (R8) -/

/-- The FIRST_VALID bits that the block has set in the current management cycle. -/
def firstNow (b : Block) : BitVec 16 := BitVec.ofNat 16 (maskOf 16 (fun k => b.setNow.contains (.first k)))

/-- A written 1 clears a W1C bit that the block has not set in the same management cycle (R8). -/
def clears (b : Block) (v : Word) (i : Nat) (x : W1cBit) : Bool := v.getLsbD i && !b.setNow.contains x

/-- R8: a write that clears W1C bits. -/
def w1cWrite (a v : Word) (b : Block) : Block :=
  if a.toNat % 4 ≠ 0 then b
  else match winOf a.toNat with
    | some (.wsk, 0x1014) => { b with evt := { b.evt with
        firstValid := b.evt.firstValid &&& ~~~(v.setWidth 16 &&& ~~~(firstNow b)) } }
    | some (.dsp, 0x1260) => if clears b v 29 .jobEnd then { b with host := { b.host with jobEnd := false } } else b
    | some (.cur n, o) =>
      if !curUsable b n then b
      else if o < 0x80000 ∧ o % 0x8000 = 4 then
        (let e := 16 * n + o / 0x8000
         if clears b v 31 (.fault e) then updEddy b e (fun x => { x with faultValid := false }) else b)
      else if 0x81000 ≤ o ∧ o < 0x82000 then
        (let g := 1024 * n + (o - 0x81000) / 4
         if clears b v 0 (.ovf g) then putGate b g { getGate b g with ovf := false } else b)
      else b
    | _ => b

def execW1cWrite (addr v : BitVec 32) (s : State) := onBlock (w1cWrite addr v) s

/-! ## Writes with an action of their own -/

/-- A function applied when a bit of the written word is set. -/
def onBit (v : Word) (i : Nat) (f : Block → Block) (b : Block) : Block := if v.getLsbD i then f b else b

def actWsk (b : Block) (o : Nat) (v : Word) : Block :=
  match o with
  | 0x1004 => evtRdSeqWrite v b
  | 0x1010 => onBit v 0 evtClrLog (onBit v 1 evtClrLost b)
  | 0x2028 => onBit v 0 fltClr b
  | _ => b

def actDsp (b : Block) (o : Nat) (v : Word) : Block :=
  if o = 0x1260 then onBit v 31 mboxGo b
  else match at' o 0 0x10 64, at' o 4 0x10 64, at' o 0x1000 4 64, at' o 0x2000 8 16 with
    | some r, _, _, _ => ringCfg r v b
    | _, some r, _, _ => cplHeadWrite r (v.setWidth 16) b
    | _, _, some r, _ => doorbell r (v.setWidth 16) b
    | _, _, _, some c => xltCtxValid c v b
    | _, _, _, _ => b

def actStart (b : Block) (o : Nat) (v : Word) : Block :=
  match o with
  | 0xC => onBit v 0 startLock b
  | 0x24 => bootPort v b
  | 0x28 => bootGo v b
  | 0x10C => onBit v 0 pwrClr b
  | _ => b

def actSec (fz : Fuses) (b : Block) (o : Nat) (v : Word) : Block :=
  match o with
  | 0x60 => dbgReq v fz b
  | 0x68 => onBit v 0 dbgDrop (onBit v 1 newNonce b)
  | 0x1400 => keyCommit v b
  | _ => b

def actEddy (b : Block) (e o : Nat) (v : Word) : Block :=
  match o with
  | 0x14 => onBit v 0 (fun b => updEddy b e clrImemErr) b
  | 0x74 => onBit v 0 (fun b => updEddy b e clrMatFlags) (onBit v 1 (fun b => updEddy b e clrResidue) b)
  | 0x8C => onBit v 0 (fun b => updEddy b e clrQntStat) b
  | _ => b

def actCurrent (b : Block) (n o : Nat) (v : Word) : Block :=
  if !curUsable b n then b
  else if o < 0x80000 then actEddy b (16 * n + o / 0x8000) (o % 0x8000) v
  else match curUnit n o with
    | some u => if o % 0x100 = 0x1C then onBit v 0 (codClr u) b else b
    | none =>
      if 0xA0000 ≤ o ∧ o < 0xA4000 ∧ o % 0x40 = 0x30 then
        -- ABORT discards what RESUME would go on with
        let sid := 256 * n + (o - 0xA0000) / 0x40
        if v.getLsbD 1 then abortStream b sid else onBit v 0 (fun b => resumeStream b sid) b
      else if o = 0xB0010 then onBit v 0 (leeClr n) b
      else b

def actLink (b : Block) (l o : Nat) (v : Word) : Block :=
  match linkUnit l o with
  | some u => if o % 0x100 = 0x1C then onBit v 0 (codClr u) b else b
  | none =>
    if o = 0xD8 then
      let b := onBit v 3 (fun b => if linkPresent b l then cmdClrLink l b else b) b
      onBit v 0 (cmdRetire l (fld v.toNat 8 4)) (onBit v 1 (noIntactFlit l) (onBit v 2 (cmdTrain l) b))
    else b

def actPort (b : Block) (f o : Nat) (v : Word) : Block :=
  if o = 8 then fabCfgDis f (v.getLsbD 31) b
  else if o = 0x1C then onBit v 0 (fabCmdReset f) (onBit v 1 (fabCmdClr f) b)
  else b

def actSeam (b : Block) (o : Nat) (v : Word) : Block :=
  if o = 0x100 then onBit v 0 seamClr b
  else if o = 0x10C then onBit v 0 (seamCmdRetire (fld v.toNat 6 1)) b
  else b

/-- What a write of a register with behaviour of its own does. -/
def registerAct (fz : Fuses) (a v : Word) (b : Block) : Block :=
  match winOf a.toNat with
  | none => b
  | some (.wsk, o) => actWsk b o v
  | some (.dsp, o) => actDsp b o v
  | some (.start, o) => actStart b o v
  | some (.sec, o) => actSec fz b o v
  | some (.cur n, o) => actCurrent b n o v
  | some (.link l, o) => actLink b l o v
  | some (.ranges, o) => if o = 0x404 then onBit v 0 wsClr b else b
  | some (.port f, o) => actPort b f o v
  | some (.seam, o) => actSeam b o v

/-- A write of an aligned address: its plain fields, its W1C bits, and its action. -/
def regWrite (fz : Fuses) (b : Block) (a v : Word) : Block :=
  registerAct fz a v (w1cWrite a v (registerWrite a v b))

/-! ## The management port (R410, R424, R425) -/

/-- A key register or SEC.KEY_COMMIT, which a host may write in BLANK and DEV alone (R410). -/
def keyAddr (a : Nat) : Bool := decide (0x301000 ≤ a) && decide (a ≤ 0x301400)

/-- R425: a request on the management port and its answer. An access that is not aligned is answered like one outside
every window (log 52). -/
def mgtReq (we : Bool) (addr wdata : Word) (fz : Fuses) (b : Block) : Block :=
  let a := addr.toNat
  if b.start.phase = .reset then b
  else if a % 4 ≠ 0 ∨ (winOf a).isNone = true then answer b true 0
  else if a = 0x101308 then leeData we wdata b
  else if we then
    if keyAddr a && !keysWritable b then answer b true 0 else answer (regWrite fz b addr wdata) false 0
  else
    let r := regRead fz b a
    answer r.2 false r.1

def execMgtReq (we : Bool) (addr wdata : BitVec 32) (s : State) := onBlockF (mgtReq we addr wdata) s

end Sys2Proof.Machine
end

