-- ==== Sys2Proof/Machine/TestAccess.lean ====
section
/-! DEFINITION. The core wrapper, the IEEE 1687 instruments and fuse writes (R414, R419, R420). Instruction codes, the
numbering of accesses and the order of the fuse words are the model's (log 19). -/

namespace Sys2Proof.Machine

/-! ## The wrapper (R419) -/

/-- R414: an instruction may be loaded: 0 WS_BYPASS, 1 WS_EXTEST, 2 WS_CLAMP, 3 WS_SAFE, 4 WS_INTEST, 5 WS_1687. -/
def wrapperAllowed (b : Block) (i : Nat) : Bool :=
  if i = 0 ∨ i = 5 then true
  else if i ≤ 3 then decide (1 ≤ b.sec.level) && !b.job.running
  else i == 4 && b.sec.level == 2

/-- Every port and link goes DOWN. -/
def allDown (b : Block) : Block :=
  let b := (List.range 64).foldl (fun b f => if (getPort b f).state = 1 then portFalls b f 0 else b) b
  let b := (List.range 64).foldl (fun b f => updPort b f (fun p => { p with up := false })) b
  (List.range 24).foldl (fun b l => if linkPresent b l && (getLink b l).state != 0 then takeDown b l else b) b

/-- After a scan the block holds itself in reset until the next RST_COLD_N. -/
def holdReset (b : Block) : Block :=
  let s := cutAttempt b.start
  warmClear { b with start := { s with
    interrupted := (phaseCode s.phase).or s.interrupted, phase := .reset, scanned := true } }

/-- R419: a wrapper instruction is loaded, or refused. -/
def wrapperInstruction (i : BitVec 4) (b : Block) : Block :=
  let n := i.toNat
  if !wrapperAllowed b n then b
  else
    let was := b.start.wrapper
    let b := if 1 ≤ n ∧ n ≤ 4 ∧ b.start.phase ≠ .reset then allDown b else b
    let b := if was = 4 ∧ n ≠ 4 then holdReset b else b
    { b with start := { b.start with wrapper := n } }

def execWrapperInstruction (i : BitVec 4) (s : State) := onBlock (wrapperInstruction i) s

/-- WRP_WSO (R23): under WS_1687 the end of the network's data register (log 158). -/
def wsoPin (b : Block) : Bool := b.start.wrapper == 5 && b.sec.dapData.getLsbD 0

/-- WRP_WPO (R23): under WS_INTEST the scan chains, whose contents the manual does not give (log 158). -/
def wpoPin (b : Block) : Word := if b.start.wrapper = 4 then (Config.freeValue b.fresh).setWidth 32 else 0

/-! ## Reads (R414, R420) -/

/-- The answer of an instrument. -/
def setDap (b : Block) (v : Nat) : Block := { b with sec := { b.sec with dapData := BitVec.ofNat 128 v } }

/-- An access that cannot be made returns 0 and MGT_ERR (R417). -/
def dapError (b : Block) : Block := { setDap b 0 with host := { b.host with err := true } }

/-- The register at an address of a window holds a counter. -/
def isCounter (a : Nat) : Bool :=
  match winOf a with
  | some (.wsk, o) => o == 0x1008 || (decide (0x2000 ≤ o) && decide (o ≤ 0x2020)) || (decide (0x2030 ≤ o) && decide (o < 0x2050))
  | some (.dsp, o) => o == 0x1104
  | some (.start, o) => o == 0x108
  | some (.cur n, o) =>
    if o < 0x80000 then
      let k := o % 0x8000
      k == 8 || k == 0xC || k == 0x10 || k == 0x48 || k == 0x88 || (decide (0x50 ≤ k) && decide (k < 0x74))
    else if (curUnit n o).isSome then decide (4 ≤ o % 0x100) && decide (o % 0x100 < 0x1C)
    else if o < 0xA4000 then o % 0x40 == 8 || o % 0x40 == 0xC || o % 0x40 == 0x2C
    else o == 0xB0004 || o == 0xB000C || decide (0xB1000 ≤ o)
  | some (.link l, o) =>
    if (linkUnit l o).isSome then decide (4 ≤ o % 0x100) && decide (o % 0x100 < 0x1C)
    else (decide (0x10 ≤ o) && decide (o < 0xA4)) || o == 0xBC || o == 0xC0 || o == 0xC4 || o == 0xD4
  | some (.ranges, o) => o == 0x400
  | some (.port _, o) => decide (0xC ≤ o) && decide (o < 0x1C)
  | some (.seam, o) => decide (o < 0x88) || o == 0x110
  | _ => false

/-- A register read through an instrument. -/
def dapReg (fz : Fuses) (b : Block) (a : Nat) : Block :=
  if a % 4 ≠ 0 ∨ (winOf a).isNone = true then dapError b
  else
    let r := regRead fz b a
    setDap r.2 r.1

/-- Granule i of the event log's records, then of the captures (R348, R354). -/
def evtGranule (b : Block) (i : Nat) : Nat :=
  let r := if i < 8192 then Table.find b.evt.records (i / 2) else Table.find b.evt.first ((i - 8192) / 2)
  (r.map (fun r => fld (recordBits r) (128 * (i % 2) + 127) (128 * (i % 2)))).getD 0

/-- Four words of the cause record, or START.STATUS. -/
def causeGranule (b : Block) (i : Nat) : Nat :=
  if i < 3 then ((List.range 4).map (fun w => causeWord b (4 * i + w) * 2 ^ (32 * w))).sum else startStatus b

/-- A fuse word: 0 lifecycle, 1 revocation, 2 and 3 rollback, 4 and 5 DEVID, 6 the owner flag;
7 reads the anti-rollback count (R407). -/
def fuseWord (fz : Fuses) (i : Nat) : Nat :=
  match i with
  | 0 => fz.lifecycle.toNat
  | 1 => fz.revoked.toNat
  | 2 => wordAt fz.rollback.toNat 0
  | 3 => wordAt fz.rollback.toNat 1
  | 4 => wordAt fz.devid.toNat 0
  | 5 => wordAt fz.devid.toNat 1
  | 6 => b2n fz.owner
  | 7 => rollbackCount fz
  | _ => 0

/-- The read instruments: 10 TEMP, 11 CNT, 12 EVT, 13 CAUSE, 14 CAPS, 15 FUSE. -/
def instrumentRead (op target : Nat) (fz : Fuses) (b : Block) : Block :=
  match op with
  | 10 => setDap b (if target < 32 then tempWord b target else 0)
  | 11 => if isCounter target then dapReg fz b target else dapError b
  | 12 => setDap b (evtGranule b target)
  | 13 => setDap b (causeGranule b target)
  | 14 => setDap b (leNat (((capsRecord b).drop (16 * target)).take 16))
  | 15 => setDap b (fuseWord fz target)
  | _ => b

/-! ## DAP, SEC and MBIST (R414, R417, R420) -/

/-- A register word that the DAP can reach: of a window, and not of a gated Current (R417). -/
def dapReaches (b : Block) (a : Nat) : Bool :=
  match winOf a with
  | none => false
  | some (.cur n, _) => a % 4 == 0 && Table.get 0 b.power.gated n == 0
  | some _ => a % 4 == 0

/-- A granule of Lee that the DAP can reach. -/
def dapLee (b : Block) (g : Nat) : Bool := isLeeAddr (16 * g) && curUsable b (addrCur (16 * g)) && isBacked b (16 * g)

/-- The four entries of a Slot word. -/
def slotWord (x : Slot) (w : Nat) : Nat :=
  ((List.range 4).map (fun i => (Table.get 0 x.entries (4 * w + i)).toNat * 2 ^ (32 * i))).sum

def setSlotWord (x : Slot) (w : Nat) (v : Nat) : Slot :=
  { x with entries := (List.range 4).foldl (fun t i => Table.put 0 t (4 * w + i) (BitVec.ofNat 32 (wordAt v i))) x.entries }

/-- The DAP's accesses: 0 and 1 read and write a Lee granule, 2 and 3 an instruction (16,384 to an Eddy), 4 and 5 a Slot
word (16 to a Slot, 256 to an Eddy), 6 and 7 a register; 8 halts an Eddy, or lets it go with data 0; 9 steps it. -/
def dapRun (op target : Nat) (data : BitVec 128) (fz : Fuses) (b : Block) : Block :=
  let e := target / 16384
  let f := target / 256
  let k := target / 16 % 16
  match op with
  | 0 =>
    if dapLee b target then
      let r := leeRead b target
      setDap r.2.2 r.1.toNat
    else dapError b
  | 1 => if dapLee b target then { b with lee := leePut b.lee target data false } else dapError b
  | 2 =>
    if e < 128 ∧ curUsable b (e / 16) = true then setDap b (Table.get haltWord (getEddy b e).imem (target % 16384)).toNat
    else dapError b
  | 3 =>
    if e < 128 ∧ curUsable b (e / 16) = true then
      updEddy b e (fun x => { x with imem := Table.put haltWord x.imem (target % 16384) data
                                     imemErr := Table.erase x.imemErr (target % 16384) })
    else dapError b
  | 4 =>
    if f < 128 ∧ curUsable b (f / 16) = true then setDap b (slotWord (getSlot (getEddy b f) k) (target % 16))
    else dapError b
  | 5 =>
    if f < 128 ∧ curUsable b (f / 16) = true then
      updEddy b f (fun x => { putSlot x k (setSlotWord (getSlot x k) (target % 16) data.toNat) with
        accErr := Table.erase x.accErr (16 * k + target % 16) })
    else dapError b
  | 6 => if dapReaches b target then dapReg fz b target else dapError b
  | 7 =>
    if 2 ^ 32 ≤ target ∨ dapReaches b target = false then dapError b
    else regWrite fz b (BitVec.ofNat 32 target) (data.setWidth 32)
  | 8 =>
    if target < 128 ∧ curUsable b (target / 16) = true then
      updEddy b target (fun x => { x with dapHalt := data != 0, dapStep := false })
    else dapError b
  | 9 =>
    if target < 128 ∧ curUsable b (target / 16) = true then
      updEddy b target (fun x => { x with dapHalt := false, dapStep := true })
    else dapError b
  | _ => b

/-- The SEC instrument reaches the debug registers of R415; bit 32 of the data makes a write. -/
def secAccess (target : Nat) (data : BitVec 128) (fz : Fuses) (b : Block) : Block :=
  let o := target - 0x300000
  if 0x300000 ≤ target ∧ 0x60 ≤ o ∧ o < 0x1E0 ∧ o % 4 = 0 then
    (if data.getLsbD 32 then regWrite fz b (BitVec.ofNat 32 target) (data.setWidth 32) else dapReg fz b target)
  else dapError b

/-- MBIST: memory BIST and repair, as S3 runs it: with bit 0 of the data the bank of the target (48 times the Eddy plus
the bank) cannot be repaired and is retired by R245; Lee is zero after it (log 135). -/
def mbist (target : Nat) (data : BitVec 128) (b : Block) : Block :=
  if b.job.running then b
  else
    let b := if data.getLsbD 0 && decide (target < 6144) && (getBank b (target / 48) (target % 48)).state != 2 then
      retireBank b (target / 48) (target % 48) else b
    { b with lee := { b.lee with mem := [], poison := [], err := [] } }

/-- An access writes or controls. -/
def dapWrites (op : Nat) : Bool := [1, 3, 5, 7, 8, 9].contains op

/-- R414, R420: an access through the 1687 network: 0 to 9 DAP, 10 to 15 the read instruments, 16 SEC, 17 MBIST. -/
def dapAccess (op target : Nat) (data : BitVec 128) (fz : Fuses) (b : Block) : Block :=
  if b.start.wrapper ≠ 5 ∨ b.start.phase = .reset then b
  else if op = 16 then secAccess target data fz b
  else if op ≤ 9 then (if b.sec.level = 2 then dapRun op target data fz b else b)
  else if op ≤ 15 then (if 1 ≤ b.sec.level then instrumentRead op target fz b else b)
  else if op = 17 ∧ b.sec.level = 2 then mbist target data b
  else b

def execDapAccess (op target : Nat) (data : BitVec 128) (s : State) := onBlockF (dapAccess op target data) s

/-! ## Fuse writes (R402, R403, R414) -/

/-- The fuses after a write of a FUSE word. -/
def blowWord (word : Nat) (v : Word) (blows : BitVec 8) (state : Nat) (fz : Fuses) : Fuses :=
  match word with
  | 0 => if state = 0 ∧ v.getLsbD 0 = true then blowGroup fz 0 blows else fz
  | 1 => { fz with revoked := fz.revoked ||| v.setWidth 4 }
  | 2 => { fz with rollback := fz.rollback ||| v.setWidth 64 }
  | 3 => { fz with rollback := fz.rollback ||| (v.setWidth 64 <<< 32) }
  | 4 => { fz with devid := fz.devid ||| v.setWidth 64 }
  | 5 => { fz with devid := fz.devid ||| (v.setWidth 64 <<< 32) }
  | 6 => { fz with owner := fz.owner || v.getLsbD 0 }
  | _ => fz

/-- R403, R414: a write through the FUSE instrument, at Full and with no job. -/
def fuseWrite (word : Nat) (v : Word) (blows : BitVec 8) (s : State) : State :=
  let b := s.blk
  if b.start.wrapper ≠ 5 ∨ b.start.phase = .reset ∨ b.sec.level ≠ 2 ∨ b.job.running = true then s
  else { s with fuses := blowWord word v blows b.sec.state s.fuses }

def execFuseWrite (word : Nat) (v : BitVec 32) (blows : BitVec 8) (s : State) : Host.Outcome State Fault Refusal :=
  .next (fuseWrite word v blows s)

end Sys2Proof.Machine
end

