-- ==== Sys2Proof/Machine/Mctp.lean ====
section
/-! DEFINITION. MCTP over I3C and PLDM (R438, R439). The manual names DSP0236, DSP0240 and DSP0248 and does not restate
them: the layouts of their messages are PRESUMED from those standards (log 53). -/

namespace Sys2Proof.Machine

/-! ## I3C (R438) -/

/-- R438: SETDASA or ENTDAA. -/
def dynamicAddress (a : BitVec 7) (b : Block) : Block :=
  if b.start.phase = .reset then b else { b with host := { b.host with dynAddr := some a.toNat } }

def execDynamicAddress (a : BitVec 7) (s : State) := onBlock (dynamicAddress a) s

/-- A byte of a message; 0 past its end. -/
def msgByte (m : List Byte) (i : Nat) : Nat := (m.getD i 0).toNat

/-- A little-endian field of a message. -/
def msgField (m : List Byte) (i n : Nat) : Nat := leNat ((m.drop i).take n)

/-- The head of the answer to a request: its type, its instance with the request bit clear, and what follows. -/
def replyHead (m : List Byte) (rest : List Nat) : List Byte :=
  ([msgByte m 0, msgByte m 1 % 32] ++ rest).map (BitVec.ofNat 8)

/-! ## MCTP control messages -/

/-- Message types that the endpoint carries besides control: PLDM and vendor defined. -/
def mctpTypes : List Nat := [0x01, 0x7F]

/-- R438: a control request and its answer: completion code and data; and the endpoint ID after it. -/
def controlAnswer (m : List Byte) (eid : Nat) : List Nat × Nat :=
  let n := m.length - 3
  match msgByte m 2 with
  | 1 =>
    if n ≠ 2 then ([3], eid)
    else
      let e := msgByte m 4
      if 2 ≤ msgByte m 3 % 4 ∨ e = 0 ∨ e = 0xFF then ([2], eid) else ([0, 0, e, 0], e)
  | 2 => (if n = 0 then [0, eid, 0, 0] else [3], eid)
  | 4 =>
    (if n ≠ 1 then [3]
     else if msgByte m 3 = 0xFF ∨ msgByte m 3 = 0 ∨ mctpTypes.contains (msgByte m 3) = true then
       [0, 1] ++ toNats (leBytes 4 (Config.mctpVersion (msgByte m 3)).toNat)
     else [0x80], eid)
  | 5 => (if n = 0 then [0, mctpTypes.length] ++ mctpTypes else [3], eid)
  | 6 =>
    (if n ≠ 1 then [3]
     else if msgByte m 3 = 0 then [0, 0xFF, 1] ++ beBytes 4 Config.eutricPen.toNat ++ [0, 0]
     else [2], eid)
  | _ => ([5], eid)

/-! ## PLDM (R439) -/

/-- A CRC-32 step over n bits. -/
def crc32Bits : Nat → Nat → Nat
  | 0, c => c
  | n + 1, c => crc32Bits n (if c % 2 = 1 then (c / 2) ^^^ 0xEDB88320 else c / 2)

/-- The CRC-32 that DSP0240 puts after version data. -/
def crc32 (l : List Nat) : Nat := (l.foldl (fun c x => crc32Bits 8 (c ^^^ x)) 0xFFFFFFFF) ^^^ 0xFFFFFFFF

/-- A mask of commands as 32 bytes. -/
def commandMask (l : List Nat) : List Nat := toNats (leBytes 32 ((l.map (fun c => 2 ^ c)).sum))

/-- Commands of PLDM types 0 and 2 that the block supports. -/
def pldmCommands (t : Nat) : Option (List Nat) :=
  if t = 0 then some [2, 3, 4, 5] else if t = 2 then some [0x11, 0x21, 0x50, 0x51] else none

/-- The sensor IDs of R439, in its order. -/
def sensorIds : List Nat :=
  (List.range 32).map (1 + ·) ++ (List.range 13).map (0x101 + ·) ++ (List.range 8).map (0x201 + ·) ++ [0x301] ++
    (List.range 24).map (0x310 + ·)

/-- A numeric sensor: whether it is enabled, and its reading (R439). -/
def numericSensor (b : Block) (id : Nat) : Option (Bool × Nat) :=
  if 1 ≤ id ∧ id < 33 then some ((reading b (id - 1)).isSome, (reading b (id - 1)).getD 0)
  else if 0x101 ≤ id ∧ id < 0x10E then some (true, Table.get 0 b.power.est (id - 0x101))
  else if 0x201 ≤ id ∧ id < 0x209 then some (curUsable b (id - 0x201), (getGale b (id - 0x201)).cur)
  else none

/-- The state of the block as sensor 0x0301 reads it. -/
def blockState (b : Block) : Nat :=
  if b.power.hold then 3
  else match b.start.phase with
    | .run => 2
    | .calm => 4
    | _ => 1

/-- A state sensor. -/
def stateSensor (b : Block) (id : Nat) : Option Nat :=
  if id = 0x301 then some (blockState b)
  else if 0x310 ≤ id ∧ id < 0x328 then some ((getLink b (id - 0x310)).state + 1)
  else none

/-- A record of the repository, and the handle of the next one. -/
def pdrAnswer (h : Nat) : List Nat :=
  let i := if h = 0 then 0 else h - 1
  if sensorIds.length ≤ i then [0x82]
  else
    let d := toNats (Config.pdrRecord i)
    [0] ++ toNats (leBytes 4 (if i + 1 < sensorIds.length then i + 2 else 0)) ++ toNats (leBytes 4 0) ++ [5] ++
      toNats (leBytes 2 d.length) ++ d

/-- Sizes of the records. -/
def pdrSizes : List Nat := (List.range sensorIds.length).map (fun i => (Config.pdrRecord i).length)

/-- A PLDM request of a type and command, with its payload: completion code and data (R439). -/
def pldmAnswer (b : Block) (t c : Nat) (p : List Byte) : List Nat :=
  if t = 0 ∧ c = 2 then (if p = [] then [0, 0] else [3])
  else if t = 0 ∧ c = 3 then
    (if p.length ≠ 6 then [3]
     else match pldmCommands (msgByte p 5) with
       | none => [0x83]
       | some _ =>
         let v := toNats (leBytes 4 (Config.mctpVersion (256 + msgByte p 5)).toNat)
         [0] ++ toNats (leBytes 4 0) ++ [5] ++ v ++ toNats (leBytes 4 (crc32 v)))
  else if t = 0 ∧ c = 4 then (if p = [] then [0, 5, 0, 0, 0, 0, 0, 0, 0] else [3])
  else if t = 0 ∧ c = 5 then
    (if p.length ≠ 5 then [3]
     else match pldmCommands (msgByte p 0) with
       | none => [0x83]
       | some l => [0] ++ commandMask l)
  else if t = 2 ∧ c = 0x11 then
    (if p.length ≠ 3 then [3]
     else match numericSensor b (msgField p 0 2) with
       | none => [0x80]
       | some (on, v) => [0, 2, b2n !on, 0, 0, 0, 0] ++ toNats (leBytes 2 v))
  else if t = 2 ∧ c = 0x21 then
    (if p.length ≠ 4 then [3]
     else match stateSensor b (msgField p 0 2) with
       | none => [0x80]
       | some v => [0, 1, 0, v, 0, 0])
  else if t = 2 ∧ c = 0x50 then
    (if p = [] then
       [0, 0] ++ toNats (leBytes 26 Config.pdrTimes.toNat) ++ toNats (leBytes 4 sensorIds.length) ++
         toNats (leBytes 4 pdrSizes.sum) ++ toNats (leBytes 4 (pdrSizes.foldl max 0)) ++ [0]
     else [3])
  else if t = 2 ∧ c = 0x51 then (if p.length ≠ 13 then [3] else pdrAnswer (msgField p 0 4))
  else [5]

/-- The block answers on I3C: it has its address and is out of reset. -/
def i3cServes (b : Block) : Bool := b.start.phase != .reset && b.host.dynAddr.isSome

/-- R439: a PLDM command is answered; the ROM monitor serves none. -/
def pldmCommand (m : List Byte) (b : Block) : Block :=
  if !i3cServes b || b.start.monitor || decide (m.length < 4) || decide (256 < m.length) || msgByte m 0 != 1 then b
  else
    mctpReply b (replyHead m ([msgByte m 2 % 64, msgByte m 3] ++
      pldmAnswer b (msgByte m 2 % 64) (msgByte m 3) (m.drop 4)))

def execPldmCommand (msg : List (BitVec 8)) (s : State) := onBlock (pldmCommand msg) s

/-! ## Vendor messages (R438; their layout is the model's, log 45) -/

/-- A register access carried by a vendor message, by the rules of the management port. -/
def vendorAccess (we : Bool) (a v : Word) (fz : Fuses) (b : Block) : Block :=
  let h := b.host
  let t := mgtReq we a v fz { b with host := { h with ack := false } }
  let r := t.host
  let t := { t with host := { r with ack := h.ack, err := h.err, rdata := h.rdata } }
  if r.ack then mctpReply t (vendorHead ++ [BitVec.ofNat 8 (b2n r.err)] ++ leBytes 4 r.rdata.toNat) else t

/-- A debug message: an access numbered as those of the 1687 network, its target and its data. Reads need Observe,
writes Full (R414). -/
def debugMessage (op target : Nat) (data : BitVec 128) (fz : Fuses) (b : Block) : Block :=
  let need := if dapWrites op then 2 else 1
  if 15 < op ∨ b.sec.level < need then b
  else
    let t := if op ≤ 9 then dapRun op target data fz b else instrumentRead op target fz b
    mctpReply t (vendorHead ++ leBytes 16 t.sec.dapData.toNat)

/-- The body of a vendor message: 64 bytes are a command entry, 4 bytes the address of a register read, 8 bytes the
address and value of a register write, 25 bytes a debug message. The ROM monitor serves register reads alone. -/
def vendorMessage (m : List Byte) (fz : Fuses) (b : Block) : Block :=
  let w (i : Nat) : Word := BitVec.ofNat 32 (msgField m i 4)
  if m.length = 64 then
    (if b.start.monitor then b
     else { b with host := { b.host with mctpCmds := b.host.mctpCmds ++ [BitVec.ofNat 512 (leNat m)] } })
  else if m.length = 4 then vendorAccess false (w 0) 0 fz b
  else if m.length = 8 ∧ b.start.monitor = false then vendorAccess true (w 0) (w 4) fz b
  else if m.length = 25 ∧ b.start.monitor = false then
    debugMessage (msgByte m 0) (msgField m 1 8) (BitVec.ofNat 128 (msgField m 9 16)) fz b
  else b

/-- R438: a message of up to 256 bytes, from its type byte on. -/
def mctpMessage (m : List Byte) (fz : Fuses) (b : Block) : Block :=
  if !i3cServes b || decide (256 < m.length) then b
  else if msgByte m 0 = 0 ∧ 3 ≤ m.length then
    (if msgByte m 1 < 128 then b
     else
       let r := controlAnswer m b.host.eid
       mctpReply { b with host := { b.host with eid := r.2 } } (replyHead m (msgByte m 2 :: r.1)))
  else if m.take 5 = vendorHead then vendorMessage (m.drop 5) fz b
  else b

def execMctpMessage (msg : List (BitVec 8)) (s : State) := onBlockF (mctpMessage msg) s

end Sys2Proof.Machine
end

