-- ==== Sys2Proof/Machine/Dispatch.lean ====
section
/-! DEFINITION. One arm per command: a direct call of its meaning (or a rejection by name while it has none). -/

namespace Sys2Proof.Machine

/-- The effect of a command on everything but the queue of waiting commands. -/
def exec (i : Instr) (s : State) : Host.Outcome State Fault Refusal :=
  match i with
  | .nop e => Sys2Proof.Machine.execNop e s
  | .br e => Sys2Proof.Machine.execBr e s
  | .brr e => Sys2Proof.Machine.execBrr e s
  | .call e => Sys2Proof.Machine.execCall e s
  | .ret e => Sys2Proof.Machine.execRet e s
  | .loop e => Sys2Proof.Machine.execLoop e s
  | .halt e => Sys2Proof.Machine.execHalt e s
  | .trap e => Sys2Proof.Machine.execTrap e s
  | .rdctr e => Sys2Proof.Machine.execRdctr e s
  | .add e => Sys2Proof.Machine.execAdd e s
  | .sub e => Sys2Proof.Machine.execSub e s
  | .mul e => Sys2Proof.Machine.execMul e s
  | .mulh e => Sys2Proof.Machine.execMulh e s
  | .and e => Sys2Proof.Machine.execAnd e s
  | .or e => Sys2Proof.Machine.execOr e s
  | .xor e => Sys2Proof.Machine.execXor e s
  | .shl e => Sys2Proof.Machine.execShl e s
  | .shr e => Sys2Proof.Machine.execShr e s
  | .sar e => Sys2Proof.Machine.execSar e s
  | .min e => Sys2Proof.Machine.execMin e s
  | .max e => Sys2Proof.Machine.execMax e s
  | .cmp e => Sys2Proof.Machine.execCmp e s
  | .sel e => Sys2Proof.Machine.execSel e s
  | .lds e => Sys2Proof.Machine.execLds e s
  | .sts e => Sys2Proof.Machine.execSts e s
  | .mov e => Sys2Proof.Machine.execMov e s
  | .movComplete e => Sys2Proof.Machine.execMovComplete e s
  | .gsig e => Sys2Proof.Machine.execGsig e s
  | .gwait e => Sys2Proof.Machine.execGwait e s
  | .bar e => Sys2Proof.Machine.execBar e s
  | .fence e => Sys2Proof.Machine.execFence e s
  | .fenceComplete e => Sys2Proof.Machine.execFenceComplete e s
  | .gateSignalArrival g k => Sys2Proof.Machine.execGateSignalArrival g k s
  | .gateWaitArrival g k => Sys2Proof.Machine.execGateWaitArrival g k s
  | .gateWake e => Sys2Proof.Machine.execGateWake e s
  | .unitTakeUp e u => Sys2Proof.Machine.execUnitTakeUp e u s
  | .vadd e => Sys2Proof.Machine.execVadd e s
  | .vsub e => Sys2Proof.Machine.execVsub e s
  | .vmul e => Sys2Proof.Machine.execVmul e s
  | .vfma e => Sys2Proof.Machine.execVfma e s
  | .vaxpy e => Sys2Proof.Machine.execVaxpy e s
  | .vmax e => Sys2Proof.Machine.execVmax e s
  | .vmin e => Sys2Proof.Machine.execVmin e s
  | .vabs e => Sys2Proof.Machine.execVabs e s
  | .vneg e => Sys2Proof.Machine.execVneg e s
  | .vrcp e => Sys2Proof.Machine.execVrcp e s
  | .vrsq e => Sys2Proof.Machine.execVrsq e s
  | .vsqrt e => Sys2Proof.Machine.execVsqrt e s
  | .vexp2 e => Sys2Proof.Machine.execVexp2 e s
  | .vlog2 e => Sys2Proof.Machine.execVlog2 e s
  | .vcvt e => Sys2Proof.Machine.execVcvt e s
  | .rsum e => Sys2Proof.Machine.execRsum e s
  | .rsumsq e => Sys2Proof.Machine.execRsumsq e s
  | .rmax e => Sys2Proof.Machine.execRmax e s
  | .rmin e => Sys2Proof.Machine.execRmin e s
  | .ramax e => Sys2Proof.Machine.execRamax e s
  | .scan e => Sys2Proof.Machine.execScan e s
  | .convert e => Sys2Proof.Machine.execConvert e s
  | .expand e => Sys2Proof.Machine.execExpand e s
  | .rmerge e => Sys2Proof.Machine.execRmerge e s
  | .sclr e => Sys2Proof.Machine.execSclr e s
  | .tload e => Sys2Proof.Machine.execTload e s
  | .tileLoadComplete e v => Sys2Proof.Machine.execTileLoadComplete e v s
  | .tswap e => Sys2Proof.Machine.execTswap e s
  | .tswapEffect e => Sys2Proof.Machine.execTswapEffect e s
  | .mma e => Sys2Proof.Machine.execMma e s
  | .rowEntry e mismatch => Sys2Proof.Machine.execRowEntry e mismatch s
  | .drain e => Sys2Proof.Machine.execDrain e s
  | .drainclr e => Sys2Proof.Machine.execDrainclr e s
  | .drainSlotRead e => Sys2Proof.Machine.execDrainSlotRead e s
  | .csave e => Sys2Proof.Machine.execCsave e s
  | .furl e => Sys2Proof.Machine.execFurl e s
  | .unfurl e => Sys2Proof.Machine.execUnfurl e s
  | .cwait e => Sys2Proof.Machine.execCwait e s
  | .codJobAccept u => Sys2Proof.Machine.execCodJobAccept u s
  | .codJobStart u => Sys2Proof.Machine.execCodJobStart u s
  | .feedBind u => Sys2Proof.Machine.execFeedBind u s
  | .furlBlockRelease u => Sys2Proof.Machine.execFurlBlockRelease u s
  | .furlBlockWrite u => Sys2Proof.Machine.execFurlBlockWrite u s
  | .unfurlHeader u => Sys2Proof.Machine.execUnfurlHeader u s
  | .unfurlBlockRelease u => Sys2Proof.Machine.execUnfurlBlockRelease u s
  | .codJobEnd u => Sys2Proof.Machine.execCodJobEnd u s
  | .arm e => Sys2Proof.Machine.execArm e s
  | .rearm e => Sys2Proof.Machine.execRearm e s
  | .swait e => Sys2Proof.Machine.execSwait e s
  | .rwait e => Sys2Proof.Machine.execRwait e s
  | .rfree e => Sys2Proof.Machine.execRfree e s
  | .sstat e => Sys2Proof.Machine.execSstat e s
  | .streamGrant n => Sys2Proof.Machine.execStreamGrant n s
  | .arbiterGrant out reqs => Sys2Proof.Machine.execArbiterGrant out reqs s
  | .ringPublish sid => Sys2Proof.Machine.execRingPublish sid s
  | .tteTick n => Sys2Proof.Machine.execTteTick n s
  | .deadlineMiss sid => Sys2Proof.Machine.execDeadlineMiss sid s
  | .pageTranslationDone sid => Sys2Proof.Machine.execPageTranslationDone sid s
  | .streamFault sid => Sys2Proof.Machine.execStreamFault sid s
  | .transferComplete sid => Sys2Proof.Machine.execTransferComplete sid s
  | .pendingActivate sid => Sys2Proof.Machine.execPendingActivate sid s
  | .strCmdResume sid => Sys2Proof.Machine.execStrCmdResume sid s
  | .strCmdAbort sid => Sys2Proof.Machine.execStrCmdAbort sid s
  | .xltCtxValid c w => Sys2Proof.Machine.execXltCtxValid c w s
  | .atomicApply f => Sys2Proof.Machine.execAtomicApply f s
  | .contributionEnd f => Sys2Proof.Machine.execContributionEnd f s
  | .reduceArm rid => Sys2Proof.Machine.execReduceArm rid s
  | .zeroEnd rid => Sys2Proof.Machine.execZeroEnd rid s
  | .scrubTick e b => Sys2Proof.Machine.execScrubTick e b s
  | .stashFlitTake u => Sys2Proof.Machine.execStashFlitTake u s
  | .linkFlitReceive l flit corr => Sys2Proof.Machine.execLinkFlitReceive l flit corr s
  | .uncorrectableCodeword l lost => Sys2Proof.Machine.execUncorrectableCodeword l lost s
  | .replayTimeout l vc => Sys2Proof.Machine.execReplayTimeout l vc s
  | .linkFlitSend l => Sys2Proof.Machine.execLinkFlitSend l s
  | .pause l => Sys2Proof.Machine.execPause l s
  | .catchQueueWrite l => Sys2Proof.Machine.execCatchQueueWrite l s
  | .catchQueueRead l => Sys2Proof.Machine.execCatchQueueRead l s
  | .dropPacket l => Sys2Proof.Machine.execDropPacket l s
  | .segLand l => Sys2Proof.Machine.execSegLand l s
  | .passEnd l => Sys2Proof.Machine.execPassEnd l s
  | .readRsp l => Sys2Proof.Machine.execReadRsp l s
  | .writeRefuse l => Sys2Proof.Machine.execWriteRefuse l s
  | .tagTimeout l tag => Sys2Proof.Machine.execTagTimeout l tag s
  | .sealReceive l => Sys2Proof.Machine.execSealReceive l s
  | .keySwitch l => Sys2Proof.Machine.execKeySwitch l s
  | .laneRetire l lane => Sys2Proof.Machine.execLaneRetire l lane s
  | .linkTraining l => Sys2Proof.Machine.execLinkTraining l s
  | .trainingWord l lane w => Sys2Proof.Machine.execTrainingWord l lane w s
  | .trainFail l => Sys2Proof.Machine.execTrainFail l s
  | .phyRdyFall l lane => Sys2Proof.Machine.execPhyRdyFall l lane s
  | .noIntactFlit l => Sys2Proof.Machine.execNoIntactFlit l s
  | .laneRetrain l lane => Sys2Proof.Machine.execLaneRetrain l lane s
  | .serWindow l => Sys2Proof.Machine.execSerWindow l s
  | .linkDown l => Sys2Proof.Machine.execLinkDown l s
  | .lnkCmdTrain l => Sys2Proof.Machine.execLnkCmdTrain l s
  | .lnkCmdRetrain l => Sys2Proof.Machine.execLnkCmdRetrain l s
  | .lnkCmdRetire l lane => Sys2Proof.Machine.execLnkCmdRetire l lane s
  | .lnkCmdClrCounts l => Sys2Proof.Machine.execLnkCmdClrCounts l s
  | .rangeArm src => Sys2Proof.Machine.execRangeArm src s
  | .rangeFree src => Sys2Proof.Machine.execRangeFree src s
  | .wsCtrlClrStat => Sys2Proof.Machine.execWsCtrlClrStat s
  | .fabricFlitReceive f cls flit => Sys2Proof.Machine.execFabricFlitReceive f cls flit s
  | .fabricMessage f => Sys2Proof.Machine.execFabricMessage f s
  | .fabricGsig f => Sys2Proof.Machine.execFabricGsig f s
  | .bootData f => Sys2Proof.Machine.execBootData f s
  | .fabricCreditReturn f c => Sys2Proof.Machine.execFabricCreditReturn f c s
  | .fabricCreditFree f c => Sys2Proof.Machine.execFabricCreditFree f c s
  | .fabricFlitSend f => Sys2Proof.Machine.execFabricFlitSend f s
  | .padded f c => Sys2Proof.Machine.execPadded f c s
  | .portUp f => Sys2Proof.Machine.execPortUp f s
  | .peerDown f => Sys2Proof.Machine.execPeerDown f s
  | .portReset f => Sys2Proof.Machine.execPortReset f s
  | .portResetEnd f => Sys2Proof.Machine.execPortResetEnd f s
  | .fabCmdReset f => Sys2Proof.Machine.execFabCmdReset f s
  | .fabCmdClrCounts f => Sys2Proof.Machine.execFabCmdClrCounts f s
  | .fabCfgDis f dis => Sys2Proof.Machine.execFabCfgDis f dis s
  | .seamBeatRelease east errs => Sys2Proof.Machine.execSeamBeatRelease east errs s
  | .beatPartMissing east ch => Sys2Proof.Machine.execBeatPartMissing east ch s
  | .seamWindow => Sys2Proof.Machine.execSeamWindow s
  | .seamRetired ch => Sys2Proof.Machine.execSeamRetired ch s
  | .seamCmdRetire ch => Sys2Proof.Machine.execSeamCmdRetire ch s
  | .seamCtrlClrCounts => Sys2Proof.Machine.execSeamCtrlClrCounts s
  | .uncontainedStop => Sys2Proof.Machine.execUncontainedStop s
  | .jobEnd vaneFails => Sys2Proof.Machine.execJobEnd vaneFails s
  | .eventReport source code detail => Sys2Proof.Machine.execEventReport source code detail s
  | .eventAppend => Sys2Proof.Machine.execEventAppend s
  | .evtRdSeqWrite v => Sys2Proof.Machine.execEvtRdSeqWrite v s
  | .evtCtrlClrLost => Sys2Proof.Machine.execEvtCtrlClrLost s
  | .evtCtrlClrLog => Sys2Proof.Machine.execEvtCtrlClrLog s
  | .fltCtrlClrCounts => Sys2Proof.Machine.execFltCtrlClrCounts s
  | .w1cWrite addr v => Sys2Proof.Machine.execW1cWrite addr v s
  | .eddyCtrlClrImemErr e => Sys2Proof.Machine.execEddyCtrlClrImemErr e s
  | .eddyMatCtrlClrResidue e => Sys2Proof.Machine.execEddyMatCtrlClrResidue e s
  | .eddyMatCtrlClrFlags e => Sys2Proof.Machine.execEddyMatCtrlClrFlags e s
  | .eddyQntCtrlClrStat e => Sys2Proof.Machine.execEddyQntCtrlClrStat e s
  | .codCtrlClrCounts u => Sys2Proof.Machine.execCodCtrlClrCounts u s
  | .leeCtrlClrCounts n => Sys2Proof.Machine.execLeeCtrlClrCounts n s
  | .registerWrite addr v => Sys2Proof.Machine.execRegisterWrite addr v s
  | .rstColdN straps => Sys2Proof.Machine.execRstColdN straps s
  | .rstWarmN straps => Sys2Proof.Machine.execRstWarmN straps s
  | .resetAssert cold => Sys2Proof.Machine.execResetAssert cold s
  | .startStageEnd bad => Sys2Proof.Machine.execStartStageEnd bad s
  | .pllLock pll => Sys2Proof.Machine.execPllLock pll s
  | .stageTimeout => Sys2Proof.Machine.execStageTimeout s
  | .startLock => Sys2Proof.Machine.execStartLock s
  | .bootPort w => Sys2Proof.Machine.execBootPort w s
  | .bootGo len => Sys2Proof.Machine.execBootGo len s
  | .watchdog => Sys2Proof.Machine.execWatchdog s
  | .powerInterval budget => Sys2Proof.Machine.execPowerInterval budget s
  | .glideEnd n => Sys2Proof.Machine.execGlideEnd n s
  | .droop => Sys2Proof.Machine.execDroop s
  | .droopRestoreStage => Sys2Proof.Machine.execDroopRestoreStage s
  | .estimateTick d amps => Sys2Proof.Machine.execEstimateTick d amps s
  | .sensorRead sensor v ok => Sys2Proof.Machine.execSensorRead sensor v ok s
  | .thermalHold sensor => Sys2Proof.Machine.execThermalHold sensor s
  | .holdExit => Sys2Proof.Machine.execHoldExit s
  | .vanePowerStep n => Sys2Proof.Machine.execVanePowerStep n s
  | .pwrCtrlClrCounts => Sys2Proof.Machine.execPwrCtrlClrCounts s
  | .currentGate src => Sys2Proof.Machine.execCurrentGate src s
  | .currentUngate src => Sys2Proof.Machine.execCurrentUngate src s
  | .powerBudget src => Sys2Proof.Machine.execPowerBudget src s
  | .lifecycleProd src blows => Sys2Proof.Machine.execLifecycleProd src blows s
  | .lifecycleRma src blows => Sys2Proof.Machine.execLifecycleRma src blows s
  | .lifecycleScrap src blows => Sys2Proof.Machine.execLifecycleScrap src blows s
  | .fuseWrite word v blows => Sys2Proof.Machine.execFuseWrite word v blows s
  | .rollbackAdvance src => Sys2Proof.Machine.execRollbackAdvance src s
  | .rootRevoke src => Sys2Proof.Machine.execRootRevoke src s
  | .keyLoad src => Sys2Proof.Machine.execKeyLoad src s
  | .keyCommit v => Sys2Proof.Machine.execKeyCommit v s
  | .contextAssign src => Sys2Proof.Machine.execContextAssign src s
  | .dbgReq v => Sys2Proof.Machine.execDbgReq v s
  | .debugGrant => Sys2Proof.Machine.execDebugGrant s
  | .newNonce => Sys2Proof.Machine.execNewNonce s
  | .dbgDrop => Sys2Proof.Machine.execDbgDrop s
  | .nonceExpiry => Sys2Proof.Machine.execNonceExpiry s
  | .wrapperInstruction v => Sys2Proof.Machine.execWrapperInstruction v s
  | .dapAccess op target data => Sys2Proof.Machine.execDapAccess op target data s
  | .mgtReq we addr wdata => Sys2Proof.Machine.execMgtReq we addr wdata s
  | .ringCfgEn r v => Sys2Proof.Machine.execRingCfgEn r v s
  | .doorbell r tail => Sys2Proof.Machine.execDoorbell r tail s
  | .commandTake src => Sys2Proof.Machine.execCommandTake src s
  | .completionWrite r => Sys2Proof.Machine.execCompletionWrite r s
  | .cplHeadWrite r v => Sys2Proof.Machine.execCplHeadWrite r v s
  | .mboxGo => Sys2Proof.Machine.execMboxGo s
  | .leeData we v => Sys2Proof.Machine.execLeeData we v s
  | .caps src => Sys2Proof.Machine.execCaps src s
  | .regionAlloc src => Sys2Proof.Machine.execRegionAlloc src s
  | .regionFree src => Sys2Proof.Machine.execRegionFree src s
  | .regionZero src => Sys2Proof.Machine.execRegionZero src s
  | .reduceArmCommand src => Sys2Proof.Machine.execReduceArmCommand src s
  | .streamArm src => Sys2Proof.Machine.execStreamArm src s
  | .streamRearm src => Sys2Proof.Machine.execStreamRearm src s
  | .streamResume src => Sys2Proof.Machine.execStreamResume src s
  | .streamAbort src => Sys2Proof.Machine.execStreamAbort src s
  | .gateSignal src => Sys2Proof.Machine.execGateSignal src s
  | .furlCommand src => Sys2Proof.Machine.execFurlCommand src s
  | .unfurlCommand src => Sys2Proof.Machine.execUnfurlCommand src s
  | .jobStart src => Sys2Proof.Machine.execJobStart src s
  | .jobAbort src => Sys2Proof.Machine.execJobAbort src s
  | .mctpMessage msg => Sys2Proof.Machine.execMctpMessage msg s
  | .pldmCommand msg => Sys2Proof.Machine.execPldmCommand msg s
  | .dynamicAddress a => Sys2Proof.Machine.execDynamicAddress a s
  | .retrainFail l => Sys2Proof.Machine.execRetrainFail l s
  | .phyRdyRise l lane => Sys2Proof.Machine.execPhyRdyRise l lane s

end Sys2Proof.Machine
end

