-- ==== Sys2Proof/Safety.lean ====
section
/-! DEFINITION. The terms in which statements about the block are made: an instruction that stands ready to issue, where
its Eddy goes on, the canonical form of memory, and what one-time fuses may do. -/

namespace Sys2Proof.Safety

open Sys2Proof.Machine

/-! ## Instructions -/

/-- The rows of the table that are instructions: the row as a command of an Eddy, with its CLASS and OP (R66). -/
def instructionRows : List ((Nat → Instr) × Nat × Nat) :=
  [(Instr.nop, 0, 0), (Instr.br, 0, 1), (Instr.brr, 0, 2), (Instr.call, 0, 3), (Instr.ret, 0, 4), (Instr.loop, 0, 5),
   (Instr.halt, 0, 6), (Instr.trap, 0, 7), (Instr.rdctr, 0, 8)] ++
  [(Instr.add, 1, 0), (Instr.sub, 1, 1), (Instr.mul, 1, 2), (Instr.mulh, 1, 3), (Instr.and, 1, 4), (Instr.or, 1, 5),
   (Instr.xor, 1, 6), (Instr.shl, 1, 7), (Instr.shr, 1, 8), (Instr.sar, 1, 9), (Instr.min, 1, 10), (Instr.max, 1, 11),
   (Instr.cmp, 1, 12), (Instr.sel, 1, 13), (Instr.lds, 1, 14), (Instr.sts, 1, 15), (Instr.mov, 2, 0)] ++
  [(Instr.arm, 3, 0), (Instr.rearm, 3, 1), (Instr.swait, 3, 2), (Instr.rwait, 3, 3), (Instr.rfree, 3, 4),
   (Instr.sstat, 3, 5), (Instr.sclr, 4, 0), (Instr.tload, 4, 1), (Instr.tswap, 4, 2), (Instr.mma, 4, 3),
   (Instr.drain, 4, 4), (Instr.drainclr, 4, 5), (Instr.csave, 4, 6)] ++
  [(Instr.vadd, 5, 0), (Instr.vsub, 5, 1), (Instr.vmul, 5, 2), (Instr.vfma, 5, 3), (Instr.vaxpy, 5, 4),
   (Instr.vmax, 5, 5), (Instr.vmin, 5, 6), (Instr.vabs, 5, 7), (Instr.vneg, 5, 8), (Instr.vrcp, 5, 9),
   (Instr.vrsq, 5, 10), (Instr.vsqrt, 5, 11), (Instr.vexp2, 5, 12), (Instr.vlog2, 5, 13), (Instr.vcvt, 5, 14)] ++
  [(Instr.rsum, 6, 0), (Instr.rsumsq, 6, 1), (Instr.rmax, 6, 2), (Instr.rmin, 6, 3), (Instr.ramax, 6, 4),
   (Instr.scan, 7, 0), (Instr.convert, 7, 1), (Instr.expand, 7, 2), (Instr.rmerge, 7, 3), (Instr.furl, 8, 0),
   (Instr.unfurl, 8, 1), (Instr.cwait, 8, 2), (Instr.gsig, 9, 0), (Instr.gwait, 9, 1), (Instr.bar, 9, 2),
   (Instr.fence, 9, 3)]

/-- The word w stands at the index of Eddy e, within instruction memory and with nothing to correct, and the sequencer
can issue. -/
def atIndex (b : Block) (e w : Nat) : Bool :=
  let x := getEddy b e
  canIssue b e && decide (x.pc ≤ 16383) && (Table.find x.imemErr x.pc).isNone &&
    (Table.get haltWord x.imem x.pc).toNat == w

/-- The word decodes as an instruction of a CLASS and OP. -/
def decodesTo (w cls op : Nat) : Bool := legal w && insClass w == cls && insOp w == op

/-- The predicate of the word is clean and true (R68). -/
def predTrue (x : Eddy) (w : Nat) : Bool := !predPoison x (insPred w) && predHolds x (insPred w)

/-- An instruction of a CLASS and OP is next on Eddy e and takes effect as far as decode and predicate decide it. -/
def fetched (b : Block) (e w cls op : Nat) : Bool :=
  atIndex b e w && decodesTo w cls op && predTrue (getEddy b e) w

/-- The same, and no interlock and no full queue holds the instruction (R74, R75). -/
def ready (b : Block) (e w cls op : Nat) : Bool := fetched b e w cls op && mayIssue b e w

/-- The next state in which Eddy e, and nothing else, has changed. -/
def eddyBecomes (s : State) (e : Nat) (y : Eddy) : Host.Outcome State Fault Refusal :=
  .next { s with blk := putEddy s.blk e y }

/-- The next state in which the volatile state is b, and Eddy e has then gone on from its instruction. -/
def goesOn (s : State) (e : Nat) (b : Block) (f : Flow) : Host.Outcome State Fault Refusal :=
  .next { s with blk := updEddy b e (fun y => continueAt y f) }

/-- The next state with the volatile state b. -/
def becomes (s : State) (b : Block) : Host.Outcome State Fault Refusal := .next { s with blk := b }

/-! ## Commands of the host (R430, R432) -/

/-- Windsock has taken a command of an OPCODE from a source and not started it; no earlier command on the same object
runs, Lee stands ready where the command needs it, and no reserved bit is set. -/
def commandIn (b : Block) (src op : Nat) (e : BitVec 512) : Prop :=
  ∃ c : Cmd, Table.find b.host.running src = some c ∧ c.entry = e ∧ cmdOpcode e = op ∧ c.started = false ∧
    inOrder b src c = true ∧ (needsLee e = true → b.power.hold = false) ∧ argsClean e = true

/-- A status is the answer to the command of a source. -/
def answered (s : State) (b : Block) (src status : Nat) : Host.Outcome State Fault Refusal :=
  becomes s (finishCmd b src status 0 0)

/-! ## Memory -/

/-- Lee memory is in its canonical form: addresses strictly rising, no byte that an unlisted address reads as. -/
def memoryWf (b : Block) : Bool := Table.wf 0 b.lee.mem

/-- One byte of Lee memory. -/
def byteAt (b : Block) (a : Nat) : Byte := Table.get 0 b.lee.mem a

/-- No error waits on a checked path: the Current switches and the half-crossbars deliver what they take (R338). -/
def pathsClean (b : Block) : Prop :=
  (∀ n, (getCur b n).switchErr = []) ∧ b.seam.westErr = [] ∧ b.seam.eastErr = []

/-! ## Fuses (R401, R402) -/

/-- Every fuse that is blown in f is blown in g. -/
def stayBlown (f g : Fuses) : Prop :=
  f.lifecycle &&& g.lifecycle = f.lifecycle ∧ f.ownerHash &&& g.ownerHash = f.ownerHash ∧
  (f.owner = true → g.owner = true) ∧ f.rollback &&& g.rollback = f.rollback ∧
  f.revoked &&& g.revoked = f.revoked ∧ f.devid &&& g.devid = f.devid

/-! ## Bounds of links, ports and the event log (R271, R277, R279, R287, R303, R317, R318, R353) -/

/-- The queues and counts of a link stay within what the link holds. -/
def linkBounded (k : Link) : Bool :=
  decide (k.rx0.expect < 65536) && decide (k.rx1.expect < 65536) && decide (k.rx2.expect < 65536) &&
    decide (k.rx3.expect < 65536) && decide (k.seq1 < 65536) && decide (k.seq2 < 65536) && decide (k.seq3 < 65536) &&
    decide (k.catchQ.length ≤ 65536) && decide (k.replay.length ≤ 4096) && decide (k.rxFlits.length ≤ 64)

/-- The credits, the receive entries and the baffle of a port stay within what the port holds. -/
def portBounded (p : Port) : Bool :=
  p.credits.length == 4 && p.credits.all (fun c => decide (c ≤ 32)) && p.frame.length == 4 &&
    (List.range 4).all (fun c => decide (p.held.countP (fun x => x.cls == c) ≤ 32)) && decide (p.baffle.length ≤ 16)

/-- Every link and every port keeps its bounds, and at most 4,096 records are unread. -/
def buffersBounded (b : Block) : Prop :=
  (∀ l, linkBounded (getLink b l) = true) ∧ (∀ f, portBounded (getPort b f) = true) ∧ unread b.evt ≤ 4096

end Sys2Proof.Safety
end

