-- ==== Sys2Proof/Certificates/Slice0/Obligations.lean ====
section
/-! DEFINITION. The statements for the provers. -/

open Sys2Proof
open Sys2Proof.Machine
open Sys2Proof.Safety

/-- For every command c and state s whose queue is c followed by rest, one step is exec of c on s with the queue rest;
exec answers a next state and leaves the queue as it was given. On an empty queue a step is one management cycle of
the block (the model's choice, log 2). (00_scope, 01_anatomy) -/
def Obligations.StepRunsFrontCommand : Prop :=
  (∀ (c : Instr) (rest : List Instr) (s : State), s.pending = c :: rest → step s = exec c { s with pending := rest }) ∧
  (∀ (c : Instr) (s : State), ∃ t, exec c s = .next t ∧ t.pending = s.pending) ∧
  (∀ s : State, s.pending = [] → step s = .next { s with blk := mgtCycle s.blk })

/-- For every state s and every step of it to a state t: every fuse that is blown in s is blown in t (lifecycle
groups, owner hash and its mark, rollback field, revoked roots, device ID). So no command and no management cycle
gives back a fuse, whatever the state of the block. (R401, R402, R407, 15_security_debug) -/
def Obligations.FusesStayBlown : Prop :=
  ∀ s t : State, step s = .next t → stayBlown s.fuses t.fuses

/-- For every instruction row of the table, every Eddy that can issue and every word at its index that does not
decode: the row's command faults the Task with 0x380 ILLEGAL and nothing else, whatever predicate the word names.
(R69) -/
def Obligations.UndecodedWordRaisesIllegal : Prop :=
  ∀ row ∈ instructionRows, ∀ (s : State) (e w : Nat), atIndex s.blk e w = true → legal w = false →
    exec (row.1 e) s = becomes s (taskFault s.blk e (getEddy s.blk e).pc 0x380)

/-- For every instruction row, every Eddy that can issue and every word at its index that decodes as that row: with
its predicate bit clean and the test false, the only change is that the Eddy goes on to the next index at the issue
cost; with the predicate bit poisoned, the Task faults with 0x38B POISON_CTL whatever the test says. (R68, R72, R340) -/
def Obligations.FalsePredicateOnlyGoesOn : Prop :=
  ∀ row ∈ instructionRows, ∀ (s : State) (e w : Nat), atIndex s.blk e w = true → decodesTo w row.2.1 row.2.2 = true →
    (predPoison (getEddy s.blk e) (insPred w) = false → predHolds (getEddy s.blk e) (insPred w) = false →
      exec (row.1 e) s = eddyBecomes s e (continueAt (getEddy s.blk e) .next)) ∧
    (predPoison (getEddy s.blk e) (insPred w) = true →
      exec (row.1 e) s = becomes s (taskFault s.blk e (getEddy s.blk e).pc 0x38B))

/-- From an Eddy x that the debug port does not step. With no loop ending at the index, issue goes on at the next
index for 1 cycle and nothing else changes. Where the innermost loop ends at the index and its counter is above 1, the
counter falls by 1 and issue goes on at the first body index for 1 cycle; where it is 1 or 0, the loop is gone, its
counter reads 0, and issue goes on as from an Eddy without that loop: from the next index, or by the back-edge of a
loop around it that ends there too. A taken branch to t costs 12 cycles, goes to t, and of the active loops keeps only
loops whose body holds t. (R72, R73, R78, R79) -/
def Obligations.WhereIssueGoesOn : Prop :=
  ∀ x : Eddy, x.dapStep = false →
    ((∀ l ∈ x.loops, l.last ≠ x.pc) → continueAt x .next = { x with pc := x.pc + 1, cycles := x.cycles + 1 }) ∧
    (∀ l r, x.loops = l :: r → l.last = x.pc → l.lc < 8 → 1 < (readReg x (0x30 + l.lc)).toNat →
      (continueAt x .next).pc = l.first ∧ (continueAt x .next).loops = x.loops ∧
      (continueAt x .next).cycles = x.cycles + 1 ∧
      (readReg (continueAt x .next) (0x30 + l.lc)).toNat + 1 = (readReg x (0x30 + l.lc)).toNat) ∧
    (∀ l r, x.loops = l :: r → l.last = x.pc → l.lc < 8 → (readReg x (0x30 + l.lc)).toNat ≤ 1 →
      let y := { writeReg x (0x30 + l.lc) 0 false with loops := r }
      readReg y (0x30 + l.lc) = 0 ∧ continueAt x .next = continueAt y .next) ∧
    (∀ t, (continueAt x (.jump t)).pc = t ∧ (continueAt x (.jump t)).cycles = x.cycles + 12 ∧
      (continueAt x (.jump t)).sreg = x.sreg ∧ (continueAt x (.jump t)).areg = x.areg ∧
      ∀ l ∈ (continueAt x (.jump t)).loops, l ∈ x.loops ∧ l.first ≤ t ∧ t ≤ l.last)

/-- For every Eddy on which the instruction is next: NOP only goes on; BR goes to TARGET; BRR goes to the index in its
clean register when that is at most 16,383, and raises PC_RANGE above; CALL pushes the index behind it while fewer
than 8 stand on the stack, else raises STACK; RET pops, and raises STACK from an empty stack; LOOP starts the loop, or
skips the body for a count of 0, raises LOOP_DEPTH as a ninth active loop, and ILLEGAL for an END at or before it, a
counter of an active loop, or an END beyond that of an active loop; HALT ends the Task once all that it waits for is
done, and the cycle counter stops at a value that is open beyond the issue costs (log 9, free); TRAP reports 0x38F
with its CODE and index and goes on; RDCTR writes the cycle counter, open in the same way. No other Eddy, memory or
register changes. (R76, R78, R79, R80, R77, R71) -/
def Obligations.ControlInstructionsComplete : Prop :=
  ∀ (s : State) (e w : Nat), let x := getEddy s.blk e
    (fetched s.blk e w 0 0 = true → exec (.nop e) s = eddyBecomes s e (continueAt x .next)) ∧
    (fetched s.blk e w 0 1 = true → exec (.br e) s = eddyBecomes s e (continueAt x (.jump (fld w 115 102)))) ∧
    (fetched s.blk e w 0 2 = true → regPoison x (fld w 115 110) = false →
      exec (.brr e) s =
        if (readReg x (fld w 115 110)).toNat ≤ 16383 then
          eddyBecomes s e (continueAt x (.jump (readReg x (fld w 115 110)).toNat))
        else becomes s (taskFault s.blk e x.pc 0x381)) ∧
    (fetched s.blk e w 0 3 = true →
      exec (.call e) s =
        if x.calls.length < 8 then
          eddyBecomes s e (continueAt { x with calls := (x.pc + 1) :: x.calls } (.jump (fld w 115 102)))
        else becomes s (taskFault s.blk e x.pc 0x382)) ∧
    (fetched s.blk e w 0 4 = true →
      (x.calls = [] → exec (.ret e) s = becomes s (taskFault s.blk e x.pc 0x382)) ∧
      (∀ t r, x.calls = t :: r → exec (.ret e) s = eddyBecomes s e (continueAt { x with calls := r } (.jump t)))) ∧
    (fetched s.blk e w 0 5 = true → (bit w 98 = true → regPoison x (fld w 97 92) = false) →
      let n := if bit w 98 then (readReg x (fld w 97 92)).toNat % 2 ^ 32 else fld w 31 0
      let y := writeReg x (0x30 + fld w 115 113) (BitVec.ofNat 64 n) false
      exec (.loop e) s =
        if n ≠ 0 ∧ 8 ≤ x.loops.length then becomes s (taskFault s.blk e x.pc 0x383)
        else if fld w 112 99 ≤ x.pc ∨ ∃ l ∈ x.loops, l.lc = fld w 115 113 ∨ l.last < fld w 112 99 then
          becomes s (taskFault s.blk e x.pc 0x380)
        else if n = 0 then eddyBecomes s e (continueAt y (.skip (fld w 112 99)))
        else eddyBecomes s e
          (continueAt { y with loops := ⟨fld w 115 113, x.pc + 1, fld w 112 99⟩ :: x.loops } .body)) ∧
    (ready s.blk e w 0 6 = true →
      exec (.halt e) s = becomes s (putEddy { s.blk with fresh := s.blk.fresh + 1 } e
        (continueAt { addCycles x ((Config.freeValue s.blk.fresh).toNat % 2 ^ 48) with run := .halted } .next))) ∧
    (fetched s.blk e w 0 7 = true →
      exec (.trap e) s =
        goesOn s e (report s.blk (0x3000 + e) 0x38F (BitVec.ofNat 128 (fld w 15 0 + x.pc * 2 ^ 16))) .next) ∧
    (fetched s.blk e w 0 8 = true → isLiveCounter x (fld w 115 110) = false →
      let y := addCycles x ((Config.freeValue s.blk.fresh).toNat % 2 ^ 48)
      exec (.rdctr e) s = becomes s (putEddy { s.blk with fresh := s.blk.fresh + 1 } e
        (continueAt (writeReg y (fld w 115 110) y.cycles false) .next)))

/-- For every Eddy on which the instruction is next: a write to the counter of an active loop raises ILLEGAL;
otherwise ADD, SUB, MUL, MULH, AND, OR, XOR, SHL, SHR, SAR, MIN and MAX write the result that R81 gives for operands A
and B to RD, poisoned when an operand is, and the Eddy goes on; CMP writes 1 or 0 by its condition; SEL writes A or B
by the predicate that COND names. Only the Eddy's RD, its poison bit, the index and the cycle counter can change. BSEL
0, 1 and 2 select the operands as R81 says. (R81, R82, R70, R339, R72) -/
def Obligations.ScalarOperationsComplete : Prop :=
  ∀ (s : State) (e w : Nat), let x := getEddy s.blk e
    let a := if fld w 97 96 = 2 then 0 else readReg x (fld w 109 104)
    let c := if fld w 97 96 = 0 then readReg x (fld w 103 98) else BitVec.ofNat 64 (fld w 63 0)
    let p := (fld w 97 96 != 2 && regPoison x (fld w 109 104)) || (fld w 97 96 == 0 && regPoison x (fld w 103 98))
    let wrote (v : DWord) (q : Bool) :=
      if isLiveCounter x (fld w 115 110) then becomes s (taskFault s.blk e x.pc 0x380)
      else eddyBecomes s e (continueAt (writeReg x (fld w 115 110) v q) .next)
    (fetched s.blk e w 1 0 = true → exec (.add e) s = wrote (a + c) p) ∧
    (fetched s.blk e w 1 1 = true → exec (.sub e) s = wrote (a - c) p) ∧
    (fetched s.blk e w 1 2 = true → exec (.mul e) s = wrote (a * c) p) ∧
    (fetched s.blk e w 1 3 = true → exec (.mulh e) s = wrote (BitVec.ofInt 64 (a.toInt * c.toInt / 2 ^ 64)) p) ∧
    (fetched s.blk e w 1 4 = true → exec (.and e) s = wrote (a &&& c) p) ∧
    (fetched s.blk e w 1 5 = true → exec (.or e) s = wrote (a ||| c) p) ∧
    (fetched s.blk e w 1 6 = true → exec (.xor e) s = wrote (a ^^^ c) p) ∧
    (fetched s.blk e w 1 7 = true → exec (.shl e) s = wrote (a <<< (c.toNat % 64)) p) ∧
    (fetched s.blk e w 1 8 = true → exec (.shr e) s = wrote (a >>> (c.toNat % 64)) p) ∧
    (fetched s.blk e w 1 9 = true → exec (.sar e) s = wrote (a.sshiftRight (c.toNat % 64)) p) ∧
    (fetched s.blk e w 1 10 = true → exec (.min e) s = wrote (if a.toInt < c.toInt then a else c) p) ∧
    (fetched s.blk e w 1 11 = true → exec (.max e) s = wrote (if a.toInt < c.toInt then c else a) p) ∧
    (fetched s.blk e w 1 12 = true → exec (.cmp e) s = wrote (if cmpHolds (fld w 95 92) a c then 1 else 0) p) ∧
    (fetched s.blk e w 1 13 = true →
      exec (.sel e) s =
        wrote (if predHolds x (fld w 95 92) then a else c) (p || predPoison x (fld w 95 92)))

/-- For every Eddy, every specifier r below 64 and every value: a scalar register then reads the value, an address
register its low 48 bits, a loop counter its low 32 bits, a predicate bit p1 to p7 its low bit, and p0 reads 1; every
other specifier reads as before, and its poison bit is as before. The poison bit of r is the one written, and p0 has
none. (R67, R70, R339, R68) -/
def Obligations.RegisterWriteReadsBack : Prop :=
  ∀ (x : Eddy) (r q : Nat) (v : DWord) (p : Bool), r < 64 → q < 64 →
    (r < 0x20 → readReg (writeReg x r v p) r = v) ∧
    (0x20 ≤ r → r < 0x30 → (readReg (writeReg x r v p) r).toNat = v.toNat % 2 ^ 48) ∧
    (0x30 ≤ r → r < 0x38 → (readReg (writeReg x r v p) r).toNat = v.toNat % 2 ^ 32) ∧
    (r = 0x38 → readReg (writeReg x r v p) r = 1) ∧
    (0x38 < r → (readReg (writeReg x r v p) r).toNat = v.toNat % 2) ∧
    (q ≠ r → readReg (writeReg x r v p) q = readReg x q ∧ regPoison (writeReg x r v p) q = regPoison x q) ∧
    regPoison (writeReg x r v p) r = (p && r != 0x38)

/-- For every Eddy on which LDS is ready: a poisoned RA raises POISON_CTL, and an RD that is an active counter
ILLEGAL. Otherwise, with the address RA + IMM modulo 2^48: aligned in the Eddy's own backed banks, in a Region of the
job that is not STASH and in a granule without a stored error, RD takes the 8 bytes, the lowest address least
significant, with the granule's poison mark, and nothing but the Eddy changes. An address outside the Eddy's own banks
raises OPERAND_CURRENT, an unaligned one ALIGN, one in no Region of the job ADDR_NO_REGION, one in a STASH Region
0x606; that the address is checked in this order is the model's (log 27). (R83, R70, R97, R339, R340, R31) -/
def Obligations.LoadReadsEightBytes : Prop :=
  ∀ (s : State) (e w : Nat), let x := getEddy s.blk e
    let a := ((readReg x (fld w 109 104)).toNat + fld w 63 0) % 2 ^ 48
    let own := isLeeAddr a && addrEddy a == e && decide (addrOff a < 0x0C000000) && isBacked s.blk a
    let fails (c : Nat) := exec (.lds e) s = becomes s (taskFault s.blk e x.pc c)
    ready s.blk e w 1 14 = true →
    (regPoison x (fld w 109 104) = true → fails 0x38B) ∧
    (regPoison x (fld w 109 104) = false → isLiveCounter x (fld w 115 110) = true → fails 0x380) ∧
    (regPoison x (fld w 109 104) = false → isLiveCounter x (fld w 115 110) = false →
    (∀ r, own = true → a % 8 = 0 → heldRegionAt s.blk a = some r → r.kind ≠ .stash →
      Table.find s.blk.lee.err (a / 16) = none →
      exec (.lds e) s = eddyBecomes s e (continueAt (writeReg x (fld w 115 110)
        (BitVec.ofNat 64 (leNat ((List.range 8).map (fun i => byteAt s.blk (a + i)))))
        (s.blk.lee.poison.contains (a / 16))) .next)) ∧
    (own = false → fails 0x384) ∧
    (own = true → a % 8 ≠ 0 → fails 0x385) ∧
    (own = true → a % 8 = 0 → heldRegionAt s.blk a = none → fails 0x605) ∧
    (∀ r, own = true → a % 8 = 0 → heldRegionAt s.blk a = some r → r.kind = .stash → fails 0x606))

/-- For every Eddy on which STS is ready with RA clean, and an aligned address in the Eddy's own backed banks, in a
Region of the job that is not STASH. Outside reduction headers, in a granule without a stored error: the 8 bytes then
read as RB, the lowest address least significant, every other byte of Lee memory reads as before, the granule is
poisoned if it was or RB is, in which case it counts in the poison count of the Current, the Eddy goes on, and outside
Lee memory and that count nothing else changes. In a reduction header: a store to ARMWORD with bit 63 clear and RB
clean does the same without the count; one with bit 63 set or RB poisoned leaves memory and stands as an arm for the
bank to check; a store elsewhere raises 0x606 and stores nothing. (R83, R33, R238, R339, R341, R97) -/
def Obligations.StoreWritesEightBytes : Prop :=
  ∀ (s : State) (e w : Nat) (r : Region), let x := getEddy s.blk e
    let a := ((readReg x (fld w 109 104)).toNat + fld w 63 0) % 2 ^ 48
    let v := readReg x (fld w 103 98)
    let p := regPoison x (fld w 103 98)
    let stored (b' : Block) :=
      (∀ i, i < 8 → byteAt b' (a + i) = (leBytes 8 v.toNat).getD i 0) ∧
      (∀ j, j < a ∨ a + 8 ≤ j → byteAt b' j = byteAt s.blk j) ∧
      (∀ g, g ∈ b'.lee.poison ↔ g ∈ s.blk.lee.poison ∨ (g = a / 16 ∧ p = true)) ∧
      b'.lee.regions = s.blk.lee.regions ∧ b'.lee.banks = s.blk.lee.banks
    ready s.blk e w 1 15 = true → regPoison x (fld w 109 104) = false →
    isLeeAddr a = true → addrEddy a = e → addrOff a < 0x0C000000 → isBacked s.blk a = true → a % 8 = 0 →
    heldRegionAt s.blk a = some r → r.kind ≠ .stash →
    (¬(r.kind = .reduce ∧ addrOff a < r.base + 64) → Table.find s.blk.lee.err (a / 16) = none →
      ∃ b', exec (.sts e) s = goesOn s e b' .next ∧ b' = { s.blk with lee := b'.lee, currents := b'.currents } ∧
        stored b' ∧
        (∀ n, getCur b' n = if n = e / 16 ∧ (p = true ∨ a / 16 ∈ s.blk.lee.poison) then
          { getCur s.blk n with poisonCount := satAdd 32 (getCur s.blk n).poisonCount 1 } else getCur s.blk n)) ∧
    (r.kind = .reduce → addrOff a = r.base →
      (v.getLsbD 63 = false → p = false →
        ∃ b', exec (.sts e) s = goesOn s e b' .next ∧ b' = { s.blk with lee := b'.lee } ∧ stored b') ∧
      ((v.getLsbD 63 = true ∨ p = true) →
        ∃ l, exec (.sts e) s = goesOn s e (putEddy { s.blk with lee := { s.blk.lee with regions := l } } e
            { x with matSeq := x.matSeq + 1 }) .next ∧
          ∀ i, Table.find l i = (Table.find s.blk.lee.regions i).map (fun q =>
            if q.held = true ∧ q.cur = r.cur ∧ q.base = r.base then
              { q with armReqs := q.armReqs ++ [⟨v, p, .eddy e x.matSeq⟩] } else q))) ∧
    (r.kind = .reduce → addrOff a < r.base + 64 → addrOff a ≠ r.base →
      exec (.sts e) s = becomes s (taskFault s.blk e x.pc 0x606))

/-- For every Eddy on which MOV is ready: a poisoned register raises POISON_CTL. With clean registers a count of 0
goes on at once, a count above 4,096 raises MOV_COUNT, and for a count between, an address that is no Lee address of a
usable Current raises OPERAND_CURRENT, an unaligned one ALIGN, and a range that the copy may not use the code of its
check (that the count comes first is the model's choice, log 150). Otherwise, with the seam in force, no stored error
in a source granule and no error on the way: each destination granule then holds the source granule as it stood before
with its poison mark, every byte and every mark outside the destination is as before, outside Lee memory and the
poison count of the Eddy's Current nothing else changes, and the Eddy waits until the row MOV_COMPLETE, which ends the
wait and changes nothing else. (R84, R85, R97) -/
def Obligations.MovCopiesGranules : Prop :=
  (∀ (s : State) (e w : Nat), let x := getEddy s.blk e
    let n := if bit w 97 then (readReg x (fld w 103 98)).toNat else fld w 12 0
    let d := (readReg x (fld w 115 110)).toNat
    let a := (readReg x (fld w 109 104)).toNat
    let soiled := regPoison x (fld w 115 110) || regPoison x (fld w 109 104) || (bit w 97 && regPoison x (fld w 103 98))
    let lee := isLeeAddr a && isLeeAddr d && curUsable s.blk (addrCur a) && curUsable s.blk (addrCur d)
    let fails (c : Nat) := exec (.mov e) s = becomes s (taskFault s.blk e x.pc c)
    ready s.blk e w 2 0 = true →
    (soiled = true → fails 0x38B) ∧
    (soiled = false → 4096 < n → fails 0x389) ∧
    (soiled = false → n = 0 → exec (.mov e) s = eddyBecomes s e (continueAt x .next)) ∧
    (soiled = false → 0 < n → n ≤ 4096 →
      (lee = false → fails 0x384) ∧
      (lee = true → ¬(a % 16 = 0 ∧ d % 16 = 0) → fails 0x385) ∧
      (lee = true → a % 16 = 0 → d % 16 = 0 → seamDown s.blk = false →
        (∀ c, checkAny s.blk false a (16 * n) = .error c → fails c) ∧
        (∀ c, checkAny s.blk false a (16 * n) = .ok () → checkAny s.blk true d (16 * n) = .error c → fails c) ∧
        (checkAny s.blk false a (16 * n) = .ok () → checkAny s.blk true d (16 * n) = .ok () → pathsClean s.blk →
          (∀ i, i < n → Table.find s.blk.lee.err (a / 16 + i) = none) →
          ∃ b', exec (.mov e) s = becomes s (putEddy b' e (continueAt { x with wait := .mov } .next)) ∧
            b' = { s.blk with lee := b'.lee, currents := b'.currents } ∧
            (∀ i, i < n → memGran b'.lee.mem (d / 16 + i) = memGran s.blk.lee.mem (a / 16 + i) ∧
              (d / 16 + i ∈ b'.lee.poison ↔ a / 16 + i ∈ s.blk.lee.poison)) ∧
            (∀ j, j < d ∨ d + 16 * n ≤ j → byteAt b' j = byteAt s.blk j) ∧
            (∀ g, g < d / 16 ∨ d / 16 + n ≤ g → (g ∈ b'.lee.poison ↔ g ∈ s.blk.lee.poison)) ∧
            b'.lee.regions = s.blk.lee.regions ∧ b'.lee.banks = s.blk.lee.banks ∧
            (∀ k, getCur b' k = { getCur s.blk k with poisonCount := (getCur b' k).poisonCount }) ∧
            ∀ k, k ≠ e / 16 → getCur b' k = getCur s.blk k)))) ∧
  (∀ (s : State) (e : Nat), (getEddy s.blk e).wait = .mov → s.blk.power.hold = false →
    exec (.movComplete e) s = eddyBecomes s e { getEddy s.blk e with wait := .none })

/-- For every Eddy on which the instruction is next and whose gate register, where one is named, is clean (a poisoned
one raises POISON_CTL), with gate ID g: GSIG, GWAIT and BAR to a Gate of a usable Current put their message on its
way, GWAIT and BAR hold issue until the Gate lets them through; to a Gate of a disabled or Gated Current they raise
GATE_ID, and to one beyond a seam without an active channel the error of R21, whose code is open (log 31). FENCE holds
issue with its scope. The row of a fence ends the wait once the conditions of the scope are met; the row of a wake
ends the wait of a GWAIT or BAR that its Gate has let through. Nothing else changes. (R86, R87, R88, R89, R90, R452) -/
def Obligations.GateInstructionsSend : Prop :=
  (∀ (s : State) (e w : Nat), let x := getEddy s.blk e
    let g := if bit w 86 then (readReg x (fld w 85 80)).toNat % 2 ^ 13 else fld w 115 103
    let sent (k : GateMsgKind) := { s.blk with gateMsgs := s.blk.gateMsgs ++ [⟨g, e, x.pc, x.matSeq, k⟩] }
    let fails (c : Nat) := becomes s (taskFault s.blk e x.pc c)
    let passes (b : Block) :=
      if curUsable s.blk (g / 1024) then
        (if seamBars s.blk (curHalf (e / 16)) (curHalf (g / 1024)) then fails seamLost else becomes s b)
      else fails 0x386
    let waits := { x with wait := .gate g false }
    ((bit w 86 = true → regPoison x (fld w 85 80) = false) →
      (fetched s.blk e w 9 0 = true →
        exec (.gsig e) s = passes (putEddy (sent (.signal (fld w 102 87))) e (continueAt x .next))) ∧
      (fetched s.blk e w 9 1 = true →
        exec (.gwait e) s = passes (putEddy (sent (.wait (fld w 102 87))) e (continueAt waits .next))) ∧
      (fetched s.blk e w 9 2 = true →
        exec (.bar e) s = passes (putEddy (sent (.bar (fld w 102 87))) e (continueAt waits .next)))) ∧
    (bit w 86 = true → regPoison x (fld w 85 80) = true →
      (fetched s.blk e w 9 0 = true → exec (.gsig e) s = fails 0x38B) ∧
      (fetched s.blk e w 9 1 = true → exec (.gwait e) s = fails 0x38B) ∧
      (fetched s.blk e w 9 2 = true → exec (.bar e) s = fails 0x38B)) ∧
    (fetched s.blk e w 9 3 = true →
      exec (.fence e) s = eddyBecomes s e (continueAt { x with wait := .fence (fld w 115 114) } .next))) ∧
  (∀ (s : State) (e scope : Nat), (getEddy s.blk e).wait = .fence scope → fenceMet s.blk e scope = true →
    s.blk.power.hold = false →
    exec (.fenceComplete e) s = eddyBecomes s e { getEddy s.blk e with wait := .none }) ∧
  (∀ (s : State) (e g : Nat), (getEddy s.blk e).wait = .gate g true → s.blk.power.hold = false →
    exec (.gateWake e) s = eddyBecomes s e { getEddy s.blk e with wait := .none })

/-- Of a message that no earlier message of its Eddy to the same Current precedes, with the seam in force. A signal
whose release is met, at a Gate that the job holds outside barrier use, adds its count, saturating at 0xFFFFFFFF with
OVF set, and the Gate then tests its waits. A wait that arrives there completes and subtracts its threshold when the
value meets it, else stays last in the queue. A BAR whose release is met, at a fresh or running generation of its N,
counts 1 and waits; the one that makes the value N sets the value to 0 and lets all N Tasks through. A Gate that the
job does not hold faults the sender with GATE_ID; a signal or wait at a Gate in barrier use, and a BAR at one in other
use or of another N, with BAR_MISMATCH. Of the waits tested from a value v, those met take their thresholds out of v
in order, and each that stays is above what is left. (R44, R45, R46, R87, R88, R21) -/
def Obligations.GateCountsAndReleases : Prop :=
  (∀ (s : State) (g k i : Nat) (m : GateMsg),
    nthMsg (fun m => m.gate == g && isSignal m) 0 s.blk.gateMsgs k = some (i, m) → released s.blk m = true →
    behindMsg s.blk i m = false → msgLost s.blk m = false → s.blk.power.hold = false →
    let b := { s.blk with gateMsgs := dropAt s.blk.gateMsgs i }
    let q := getGate s.blk g
    (q.held = false → exec (.gateSignalArrival g k) s = becomes s (taskFault b m.eddy m.pc 0x386)) ∧
    (q.held = true → q.barUse = true →
      exec (.gateSignalArrival g k) s = becomes s (taskFault b m.eddy m.pc 0x387)) ∧
    (∀ n, m.kind = .signal n → q.held = true → q.barUse = false →
      let t := testWaits (min (q.value + n) 0xFFFFFFFF) q.waits
      let past := decide (0xFFFFFFFF < q.value + n)
      exec (.gateSignalArrival g k) s =
        becomes s (letThrough (putGate (if past then noteSet b (.ovf g) else b) g { q with
          value := t.1, waits := t.2.1, ovf := q.ovf || past }) g t.2.2))) ∧
  (∀ (s : State) (g k i : Nat) (m : GateMsg),
    nthMsg (fun m => m.gate == g && !isSignal m) 0 s.blk.gateMsgs k = some (i, m) →
    (m.kind.isBar = true → released s.blk m = true) → behindMsg s.blk i m = false → msgLost s.blk m = false →
    s.blk.power.hold = false →
    let b := { s.blk with gateMsgs := dropAt s.blk.gateMsgs i }
    let q := getGate s.blk g
    let fails (c : Nat) := exec (.gateWaitArrival g k) s = becomes s (taskFault b m.eddy m.pc c)
    (q.held = false → fails 0x386) ∧
    (∀ n, m.kind = .wait n → q.held = true →
      (q.barUse = true → fails 0x387) ∧
      (q.barUse = false → exec (.gateWaitArrival g k) s =
        if n ≤ q.value then becomes s (letThrough (putGate b g { q with value := q.value - n }) g [m.eddy])
        else becomes s (putGate b g { q with waits := q.waits ++ [⟨m.eddy, n⟩] }))) ∧
    (∀ n, m.kind = .bar n → q.held = true →
      let fits := (q.barUse = true ∨ (q.value = 0 ∧ q.waits = [])) ∧ (q.barN = 0 ∨ q.barN = n)
      (¬fits → fails 0x387) ∧
      (fits → exec (.gateWaitArrival g k) s =
        if q.value + 1 = n then becomes s (letThrough (putGate b g { q with
          barUse := true, value := 0, barN := 0, barWaits := [] }) g (q.barWaits ++ [m.eddy]))
        else becomes s (putGate b g { q with
          barUse := true, value := q.value + 1, barN := n, barWaits := q.barWaits ++ [m.eddy] })))) ∧
  (∀ (v : Nat) (l : List GateWait), ∃ met : List GateWait, (testWaits v l).2.2 = met.map (·.eddy) ∧
    (met ++ (testWaits v l).2.1).Perm l ∧ met.Sublist l ∧ (testWaits v l).1 + (met.map (·.thresh)).sum = v ∧
    ∀ k ∈ (testWaits v l).2.1, (testWaits v l).1 < k.thresh)

/-- For every Eddy on which the instruction is ready, its registers clean and RD not an active counter. SSTAT writes
the stream's status word to RD. SWAIT does so at once when at most N transfers are armed, else holds issue at the head
of the queue; RWAIT likewise for a ring that holds enough bytes or is marked END. RFREE moves Rd by a multiple of 16
bytes that the ring holds, and else returns 0x115 and frees nothing. ARM and REARM read the descriptor; a check of
R202 that fails puts its code in RD and arms nothing; otherwise the transfer is placed and RD is 0. The take-up of an
entry of the STR, VEC, RED or QNT queue whose effect came at issue frees it and nothing else; that of an SWAIT or
RWAIT whose condition is met also writes its register and ends the wait; that of a MAT instruction frees its entry and
lets the unit go on. (R205, R206, R208, R202, R74) -/
def Obligations.StreamInstructionsComplete : Prop :=
  (∀ (s : State) (e w sid : Nat), let x := getEddy s.blk e
    let rd := fld w 115 110
    let did (b : Block) (v : DWord) := becomes s (putEddy b e (continueAt (writeReg (pushQueue x 3 .plain) rd v false) .next))
    let holds (q : QEntry) := eddyBecomes s e (continueAt { pushQueue x 3 q with wait := .unit 3 } .next)
    isLiveCounter x rd = false →
    (strSid x e w = .ok sid →
      (ready s.blk e w 3 5 = true → exec (.sstat e) s = did s.blk (streamWord (getStream s.blk sid))) ∧
      (ready s.blk e w 3 2 = true → exec (.swait e) s =
        if (getStream s.blk sid).armed.length ≤ b2n (bit w 76) then did s.blk (streamWord (getStream s.blk sid))
        else holds (.swait sid (b2n (bit w 76)) rd)) ∧
      (∀ (rearm : Bool) (desc : Nat), let a := (readReg x (fld w 109 104)).toNat
        let d := leeBytesAt s.blk a 64
        ready s.blk e w 3 (b2n rearm) = true → regPoison x (fld w 109 104) = false →
        regPoison x (fld w 103 98) = false → isLeeAddr a = true → a % 16 = 0 →
        checkOwn s.blk (e / 16) false a 64 = .ok () → markedNat d.1 = (desc, false) →
        (∀ c, armCheck d.2 sid rearm desc (readReg x (fld w 103 98)) = .error c →
          exec (if rearm then .rearm e else .arm e) s = did d.2 (BitVec.ofNat 64 c)) ∧
        (∀ t, armCheck d.2 sid rearm desc (readReg x (fld w 103 98)) = .ok t →
          exec (if rearm then .rearm e else .arm e) s = did (placeXfer d.2 sid rearm t) 0))) ∧
    (∀ r, let v := (readReg x (fld w 97 92)).toNat
      regPoison x (fld w 97 92) = false → ringOf s.blk (e / 16) (fld v 11 0) = .ok r →
      (ready s.blk e w 3 3 = true → exec (.rwait e) s =
        if rwaitMet r (fld v 63 32) then did s.blk (rwaitResult r (fld v 63 32))
        else holds (.rwait (fld v 11 0) (fld v 63 32) rd)) ∧
      (ready s.blk e w 3 4 = true → exec (.rfree e) s =
        if fld v 63 32 % 16 = 0 ∧ fld v 63 32 ≤ ringOcc r then
          did (putRegion s.blk (fld v 11 0) { r with ringRd := (r.ringRd + fld v 63 32) % 2 ^ 32 }) 0
        else did s.blk 0x115))) ∧
  (∀ (s : State) (e u : Nat) (q : List QEntry), u ≠ 4 → s.blk.power.hold = false → let x := getEddy s.blk e
    (queueOf x u = .plain :: q → exec (.unitTakeUp e u) s = eddyBecomes s e (setQueue x u q)) ∧
    (∀ sid n rd, queueOf x u = .swait sid n rd :: q → (getStream s.blk sid).armed.length ≤ n →
      exec (.unitTakeUp e u) s = eddyBecomes s e
        (setQueue { writeReg x rd (streamWord (getStream s.blk sid)) false with wait := .none } u q)) ∧
    (∀ id n rd r, queueOf x u = .rwait id n rd :: q → getRegion s.blk id = some r → rwaitMet r n = true →
      exec (.unitTakeUp e u) s = eddyBecomes s e
        (setQueue { writeReg x rd (rwaitResult r n) false with wait := .none } u q))) ∧
  (∀ (s : State) (e n : Nat) (q : List QEntry), queueOf (getEddy s.blk e) 4 = .mat n :: q → s.blk.power.hold = false →
    exec (.unitTakeUp e 4) s = becomes s (settle (putEddy s.blk e (setQueue (getEddy s.blk e) 4 q)) e))

/-- For every VEC row, every Eddy on which it is ready, an element count n from CIMM or a clean register. With n above
0, sources that may be read and a destination that may be written, element i of the destination is the exact result of
the row (for VRCP, VRSQ, VSQRT, VEXP2 and VLOG2 the FP32 value of the model, open within two units in the last place,
log 13) on elements i of the sources, rounded once to DFMT by RND, and poisoned when a source is; the instruction
takes an entry of the VEC queue, uses n draws when RND is 0b01 and none otherwise, and the Eddy goes on. With a count
of 0 it only takes its queue entry. (R91, R92, R131, R148, R149, R339, R74) -/
def Obligations.VectorOperationsComplete : Prop :=
  ∀ row ∈ [((Instr.vadd : Nat → Instr), 0, fun (a c _ _ : Value) => Value.add a c),
      (Instr.vsub, 1, fun a c _ _ => Value.sub a c), (Instr.vmul, 2, fun a c _ _ => Value.mul a c),
      (Instr.vfma, 3, fun a c d _ => Value.add (Value.mul a c) d), (Instr.vaxpy, 4, fun a c _ k => Value.add (Value.mul k a) c),
      (Instr.vmax, 5, fun a c _ _ => numMax a c), (Instr.vmin, 6, fun a c _ _ => numMin a c),
      (Instr.vabs, 7, fun a _ _ _ => a.abs), (Instr.vneg, 8, fun a _ _ _ => a.neg),
      (Instr.vrcp, 9, fun a _ _ _ => ofF32 (vecApprox 9 (toF32 a))),
      (Instr.vrsq, 10, fun a _ _ _ => ofF32 (vecApprox 10 (toF32 a))),
      (Instr.vsqrt, 11, fun a _ _ _ => ofF32 (vecApprox 11 (toF32 a))),
      (Instr.vexp2, 12, fun a _ _ _ => ofF32 (vecApprox 12 (toF32 a))),
      (Instr.vlog2, 13, fun a _ _ _ => ofF32 (vecApprox 13 (toF32 a))), (Instr.vcvt, 14, fun a _ _ _ => a)],
    ∀ (s : State) (e w n : Nat), let x := getEddy s.blk e
      let sf := fld w 83 80
      let df := fld w 87 84
      let rnd := fld w 79 78
      ready s.blk e w 5 row.2.1 = true → vecCount x w = .ok n →
      (n = 0 → exec (row.1 e) s = eddyBecomes s e (continueAt (pushQueue x 5 .plain) .next)) ∧
      (0 < n → checkSources s.blk e sf n (vecFields w (vecSources row.2.1)) = .ok () →
        checkDest s.blk e (fld w 115 109) df n = .ok () →
        let r := readOperands e sf n (vecFields w (vecSources row.2.1)) s.blk
        let elem (k i : Nat) := (r.1.getD k []).getD i (0, false)
        let num (k i : Nat) := elemValue sf [] (elem k i).1
        ∃ out : List Elem, out.length = n ∧
          (∀ i, i < n → out.getD i (0, false) =
            ((fpConvert df (rndOf rnd s.blk.job.seed e 0 x.drawVec i) false
              (row.2.2 (num 0 i) (num 1 i) (num 2 i) (ofF32 ((readReg x (fld w 77 72)).setWidth 32)))).code,
              (elem 0 i).2 || (elem 1 i).2 || (elem 2 i).2 || (row.2.1 == 4 && regPoison x (fld w 77 72)))) ∧
          exec (row.1 e) s = goesOn s e (updEddy (writeOperand r.2 e (fld w 115 109) df out) e
            (fun y => { pushQueue y 5 .plain with drawVec := if rnd = 0 then y.drawVec else y.drawVec + n })) .next)

/-- For every RED row, every Eddy on which it is ready and an element count n: segments of SEG elements that do not
divide n raise ILLEGAL; else with n 0 it only takes its queue entry; else, with a source that may be read and a
destination that may be written: without segments, RSUM and RSUMSQ write their result to RD, and RMAX, RMIN and RAMAX
write the winner's value to RD and its index to the index register, poisoned when an element is; with segments, one
record of value and index per segment is written at the address in the record register. Each takes an entry of the RED
queue and the Eddy goes on. Over INT32, RMAX returns the largest value with the lowest index that holds it, RMIN the
smallest; a RSUM that fits 64 bits is the sum (one that does not fit is open, log 24). (R121, R122, R92, R339,
04_vanes_and_accumulators) -/
def Obligations.ReductionsComplete : Prop :=
  (∀ row ∈ [((Instr.rsum : Nat → Instr), 0), (Instr.rsumsq, 1), (Instr.rmax, 2), (Instr.rmin, 3), (Instr.ramax, 4)],
    ∀ (s : State) (e w n : Nat), let x := getEddy s.blk e
      let fmt := fld w 96 93
      let seg := fld w 92 77
      ready s.blk e w 6 row.2 = true → vecCount x w = .ok n →
      (seg ≠ 0 → n % seg ≠ 0 → exec (row.1 e) s = becomes s (taskFault s.blk e x.pc 0x380)) ∧
      (n = 0 → exec (row.1 e) s = eddyBecomes s e (continueAt (pushQueue x 6 .plain) .next)) ∧
      (0 < n → checkSource s.blk e (fld w 103 97) fmt n = .ok () →
        let r := readOperand s.blk e (fld w 103 97) fmt n
        let v := reduceRun row.2 fmt r.1
        let b := updEddy r.2 e (fun y => pushQueue y 6 .plain)
        (seg = 0 → isLiveCounter x (fld w 115 110) = false →
          (row.2 ≤ 1 → exec (row.1 e) s = goesOn s e (updEddy b e (fun y =>
            writeReg y (fld w 115 110) (BitVec.ofNat 64 v.wide) v.poison)) .next) ∧
          (2 ≤ row.2 → isLiveCounter x (fld w 109 104) = false →
            exec (row.1 e) s = goesOn s e (updEddy b e (fun y =>
              writeReg (writeReg y (fld w 115 110) (BitVec.ofNat 64 v.wide) v.poison) (fld w 109 104)
                (BitVec.ofNat 64 v.index) v.poison)) .next)) ∧
        (seg ≠ 0 → n % seg = 0 → regPoison x (fld w 76 71) = false →
          checkOwn s.blk (e / 16) true (readReg x (fld w 76 71)).toNat (8 * (n / seg)) = .ok () →
          exec (row.1 e) s = goesOn s e (leeWriteBytes b (e / 16) (readReg x (fld w 76 71)).toNat
            (redRecords ((chunks n seg r.1).map (reduceRun row.2 fmt)))) .next))) ∧
  (∀ l : List Elem, let xs := l.map (fun y => signed 32 y.1)
    (-2 ^ 63 ≤ xs.sum → xs.sum < 2 ^ 63 → (reduceRun 0 11 l).wide = (xs.sum % 2 ^ 64).toNat) ∧
    (∀ i, (reduceRun 2 11 l).index = i → l ≠ [] → i < l.length ∧
      (reduceRun 2 11 l).wide = (xs.getD i 0 % 2 ^ 64).toNat ∧
      (∀ j, j < l.length → xs.getD j 0 ≤ xs.getD i 0) ∧ (∀ j, j < i → xs.getD j 0 < xs.getD i 0)) ∧
    (∀ i, (reduceRun 3 11 l).index = i → l ≠ [] → i < l.length ∧
      (reduceRun 3 11 l).wide = (xs.getD i 0 % 2 ^ 64).toNat ∧
      (∀ j, j < l.length → xs.getD i 0 ≤ xs.getD j 0) ∧ (∀ j, j < i → xs.getD i 0 < xs.getD j 0)))

/-- For every QNT row on an Eddy on which it is ready, with a clean aligned descriptor that keeps R138 and R139: with
no rows or no columns it only takes its queue entry; otherwise it does its pass and the Eddy goes on. With no stored
error in Lee and ACC 0, the record of group g that SCAN writes is the fold of the group's elements, and the record of
column c that RMERGE writes is the merge of its arrays. With given scales (SSRC 2), row i that CONVERT writes holds
the code of each element under its group's scale, and row i that EXPAND writes the expanded element. (R137, R138,
R139, R140, R141, R142, R143, R146) -/
def Obligations.QuantiserInstructionsComplete : Prop :=
  ∀ (s : State) (e w a : Nat), let x := getEddy s.blk e
    let r := leeBytesAt s.blk a 48
    let d := qDescOf (r.1.map (·.1))
    qAddr x (fld w 91 86) = .ok a → checkOwn s.blk (e / 16) false a 48 = .ok () → r.1.any (·.2) = false →
    (∀ row ∈ [((Instr.scan : Nat → Instr), 0, runScan), (Instr.convert, 1, runConvert), (Instr.expand, 2, runExpand),
        (Instr.rmerge, 3, runRmerge)],
      ready s.blk e w 7 row.2.1 = true → qDescOk row.2.1 (fld w 85 84) d = true →
      (d.rows = 0 ∨ d.cols = 0 →
        exec (row.1 e) s = goesOn s e (updEddy r.2 e (fun y => pushQueue y 7 .plain)) .next) ∧
      (∀ b', 0 < d.rows → 0 < d.cols → row.2.2 r.2 e w d = .ok b' →
        exec (row.1 e) s = goesOn s e (updEddy b' e (fun y => pushQueue y 7 .plain)) .next)) ∧
    (∀ b' src rr, s.blk.lee.err = [] → d.acc = false →
      qAddr x (fld w 115 110) = .ok src → qAddr x (fld w 97 92) = .ok rr →
      (runScan s.blk e w d = .ok b' → ∀ g, g < qGroups d →
        memGran b'.lee.mem (rr / 16 + g) =
          (rngGranule ((qMembers g (qTagged d (readRows s.blk src d.spitch d.ifmt d.cols d.rows).1)).foldl
            (fun q y => rngFold q (elemValue d.ifmt [] y.1) y.2) Rng.empty)).1) ∧
      (runRmerge s.blk e w d = .ok b' → ∀ c, c < d.cols →
        memGran b'.lee.mem (rr / 16 + c) =
          (rngGranule ((List.range d.rows).foldl (fun q i => rngMerge q
            (rngOf (memGran s.blk.lee.mem (src / 16 + i * d.cols + c),
              s.blk.lee.poison.contains (src / 16 + i * d.cols + c)))) Rng.empty)).1)) ∧
    (∀ b' src dst srec, s.blk.lee.err = [] → qAddr x (fld w 115 110) = .ok src → qAddr x (fld w 109 104) = .ok dst →
      qAddr x (fld w 103 98) = .ok srec →
      let rows := (readRows s.blk src d.spitch d.ifmt d.cols d.rows).1
      let recs := scaleRecsOf d (qGroups d) (leeBytesAt s.blk srec (qGroups d * scaleRecBytes d)).1
      let scale (g : Nat) := readScale d.sfmt d.zpf (recs.getD g (⟨0, 0⟩, false)).1.code (recs.getD g (⟨0, 0⟩, false)).1.zp
      let rnd (i c : Nat) := rndOf (fld w 85 84) s.blk.job.seed e 1 x.drawQnt (i * d.cols + c)
      let code (i c : Nat) := ((rows.getD i []).getD c (0, false)).1
      (qDescOk 1 (fld w 85 84) d = true → d.ssrc = 2 → runConvert s.blk e w d = .ok b' → ∀ i, i < d.rows →
        (rowElems d.ofmt d.cols (leeBytesAt b' (dst + i * d.dpitch) (elemBytes d.ofmt d.cols)).1).map (·.1) =
          (List.range d.cols).map (fun c =>
            (convertElem d (rnd i c) (scale (qGroup d i c)) (elemValue d.ifmt [] (code i c))).code)) ∧
      (qDescOk 2 (fld w 85 84) d = true → runExpand s.blk e w d = .ok b' → ∀ i, i < d.rows →
        (rowElems d.ofmt d.cols (leeBytesAt b' (dst + i * d.dpitch) (elemBytes d.ofmt d.cols)).1).map (·.1) =
          (List.range d.cols).map (fun c => (expandElem d (rnd i c) (scale (qGroup d i c)) (code i c)).code)))

/-- For each of the formats FP4, FP8 E4M3, FP8 E5M2, BF16, FP16 and FP32 and every code of the format's width that
stands for a finite number: converting that number to the format gives the code back, to nearest even and
stochastically with any draw, without counting a saturation or a NaN conversion. A NaN converts to the canonical NaN
of the format. So a conversion never changes a value that its format can hold. (R129, R130, R131, R132, 05_numerics) -/
def Obligations.FiniteCodesConvertToThemselves : Prop :=
  ∀ f ∈ [2, 6, 7, 8, 9, 10], ∀ (c : Nat) (rnd : Rnd) (satf : Bool), c < 2 ^ fmtBits f →
    ((fpDecode f c).isFin = true → fpConvert f rnd satf (fpDecode f c) = ⟨c, false, false⟩) ∧
    (fpConvert f rnd satf .nan).code = fpNan f

/-- For every Eddy on which the instruction is ready, its registers clean, its operands aligned and inside Regions of
the job, its Slots within the store and its Vanes present: the instruction takes an entry of the MAT queue and joins
the operations in flight with the fields of its word, and the Eddy goes on; its effects begin once the unit takes it
up. A count of 0 of SCLR, MMA, DRAIN and DRAINCLR only takes the queue entry. Of the faults: a Vane that is absent
raises 0x309, a TLOAD onto a shadow that is not free 0x308, a TSWAP of a shadow that will hold no Tile 0x303, and
Slots beyond the store 0x38A. (R103, R104, R105, R108, R111, R115, R74, R114, 04_vanes_and_accumulators) -/
def Obligations.MatInstructionsIssue : Prop :=
  ∀ (s : State) (e w : Nat), let x := getEddy s.blk e
    let reg (hi lo : Nat) := (readReg x (fld w hi lo)).toNat
    let vs := setBits 8 (fld w 115 108)
    let enters (o : MatOp) := eddyBecomes s e (continueAt (pushOp (pushQueue x 4 (matEntry x.matSeq o)) o) .next)
    let empty := eddyBecomes s e (continueAt (pushQueue x 4 .plain) .next)
    let fails (c : Nat) := becomes s (taskFault s.blk e x.pc c)
    (ready s.blk e w 4 0 = true → (bit w 100 = true → regPoison x (fld w 99 94) = false) →
      let n := if bit w 100 then reg 99 94 % 2 ^ 14 else fld w 13 0
      (n = 0 → exec (.sclr e) s = empty) ∧
      (0 < n → 8192 < fld w 115 103 + n → exec (.sclr e) s = fails 0x38A) ∧
      (0 < n → fld w 115 103 + n ≤ 8192 → (isWide (fld w 102 101) = true → fld w 115 103 % 2 = 0) →
        exec (.sclr e) s = enters (.sclr (fld w 115 103) n (fld w 102 101)))) ∧
    (ready s.blk e w 4 1 = true →
      let t : TloadOp := { pc := x.pc, todo := vs.zipIdx, begun := [], wfmt := fld w 107 104, fromFeed := bit w 103,
                           addr := reg 102 97, feed := fld w 96 95, kv := fld w 94 88, nv := fld w 87 81,
                           sgran := fld w 80 78, sfmt := fld w 77 76, csacc := bit w 75, got := [], gotPoison := false }
      let busy (v : Nat) := shadowBusy v x.matOps ((getVane x v).shadow != .empty)
      let fd := getFeed s.blk (4 * (e / 16) + fld w 96 95)
      (bit w 103 = false → regPoison x (fld w 102 97) = false →
        (vaneAbsent x vs = true → exec (.tload e) s = fails 0x309) ∧
        (vaneAbsent x vs = false → (∃ v ∈ vs, busy v = true) → exec (.tload e) s = fails 0x308) ∧
        (vaneAbsent x vs = false → (∀ v ∈ vs, busy v = false) → reg 102 97 % 16 = 0 →
          checkOwn s.blk (e / 16) false (reg 102 97)
            (imageBytes (fld w 107 104) (fld w 80 78) (fld w 77 76) * vs.length) = .ok () →
          exec (.tload e) s = enters (.tload t))) ∧
      (bit w 103 = true → vaneAbsent x vs = false → (∀ v ∈ vs, busy v = false) → fd.bound = true → fd.eddy = e % 16 →
        exec (.tload e) s = enters (.tload t))) ∧
    (ready s.blk e w 4 2 = true →
      (vaneAbsent x vs = true → exec (.tswap e) s = fails 0x309) ∧
      (vaneAbsent x vs = false → (∃ v ∈ vs, (vaneAhead x v).1 = false) → exec (.tswap e) s = fails 0x303) ∧
      (vaneAbsent x vs = false → (∀ v ∈ vs, (vaneAhead x v).1 = true ∧ (vaneAhead x v).2 = false) →
        exec (.tswap e) s = enters (.tswap x.pc vs))) ∧
    (ready s.blk e w 4 6 = true → regPoison x (fld w 112 107) = false → vaneAbsent x [fld w 115 113] = false →
      reg 112 107 % 16 = 0 → checkOwn s.blk (e / 16) true (reg 112 107) 512 = .ok () →
      exec (.csave e) s = enters (.csave x.pc (fld w 115 113) (reg 112 107))) ∧
    (ready s.blk e w 4 3 = true → (bit w 41 = true → regPoison x (fld w 40 35) = false) →
      regPoison x (fld w 103 98) = false → regPoison x (fld w 58 53) = false →
      (fld w 52 50 ≠ 0 → regPoison x (fld w 47 42) = false) →
      let m := if bit w 41 then reg 40 35 % 2 ^ 16 else fld w 15 0
      let o : MmaOp := { pc := x.pc, vanes := vs, afmt := fld w 107 104, addr := reg 103 98, slot := fld w 97 85,
                         mstr := fld w 84 72, vstr := fld w 71 59, pitch := fld (reg 58 53) 31 0,
                         voff := fld (reg 58 53) 63 32, asgran := fld w 52 50, asfmt := fld w 49 48,
                         asaddr := reg 47 42, rows := m, next := 0 }
      (vaneAbsent x vs = true → exec (.mma e) s = fails 0x309) ∧
      (vaneAbsent x vs = false → (m = 0 ∨ vs = []) → exec (.mma e) s = empty) ∧
      (vaneAbsent x vs = false → 0 < m → vs ≠ [] → o.pitch % 16 = 0 → o.voff % 16 = 0 → o.addr % 16 = 0 →
        (o.asgran ≠ 0 → o.voff = 0) → mmaSlot o (m - 1) (vs.length - 1) < 8192 →
        checkMmaRows s.blk (e / 16) o = .ok () → exec (.mma e) s = enters (.mma o))) ∧
    (∀ clear : Bool, ready s.blk e w 4 (4 + b2n clear) = true →
      (bit w 41 = true → regPoison x (fld w 40 35) = false) → regPoison x (fld w 89 84) = false →
      regPoison x (fld w 82 77) = false → (bit w 83 = false → regPoison x (fld w 63 58) = false) →
      (bit w 64 = true → regPoison x (fld w 70 65) = false) →
      let n := if bit w 41 then reg 40 35 % 2 ^ 14 else fld w 13 0
      let dst := reg 89 84
      let o : DrainOp := { pc := x.pc, clear := clear, slot := fld w 115 103, sstr := fld w 102 90, rows := n, next := 0,
                           toPort := bit w 83, addr := dst, pitch := fld (reg 63 58) 31 0, port := fld dst 5 0,
                           cls := fld dst 7 6, region := fld dst 19 8, off := fld dst 51 20, desc := reg 82 77,
                           dfmt := fld w 76 73, rnd := fld w 72 71, asv := bit w 64, asaddr := reg 70 65, tail := [],
                           tailPoison := false, grans := [] }
      let command := if clear then Instr.drainclr e else Instr.drain e
      (n = 0 → exec command s = empty) ∧
      (0 < n → 8192 ≤ o.slot + (n - 1) * o.sstr → exec command s = fails 0x38A) ∧
      (0 < n → n ≤ 8192 → o.slot + (n - 1) * o.sstr < 8192 → o.desc % 16 = 0 →
        checkOwn s.blk (e / 16) false o.desc 1296 = .ok () →
        (bit w 64 = true → checkOwn s.blk (e / 16) false o.asaddr (8 * n) = .ok ()) →
        (if bit w 83 then portUp s.blk o.port = true ∧ o.cls ≠ 1 ∧ seamDown s.blk = false ∧ o.off % 16 = 0
         else dst % 16 = 0 ∧ o.pitch % 16 = 0 ∧ checkRows s.blk (e / 16) true dst o.pitch 1 n = .ok ()) →
        exec command s = enters (.drain o)))

/-- With no error waiting at the Vane inputs, the load of a Vane of the first TLOAD that names it completes once
begun, by taking the image of its rank from Lee, where no earlier write to it stands, or from its feed, putting the
Tile in the Vane and its column sums in CSUM. The first TSWAP that is ready makes the shadow Tile active on each Vane
that is full and that nothing earlier still uses, loads or swaps. The next row of the first MMA that may enter is
added into its Slots, and the MMA ends with its last row; one whose rows would fault faults before its first. The next
Slot of the first drain is read once no earlier product to it is outstanding; a drain whose Slots would fault faults
before its first. A fault stops the Task with the instruction's index. An SCLR that the unit takes up with nothing
else in flight clears its Slots at once, each of them zero and of its mode, and leaves every other Slot. (R103, R104,
R105, R108, R113, R117, R118, R124, R74, R342) -/
def Obligations.MatOperationsTakeEffect : Prop :=
  (∀ (s : State) (e v i : Nat) (t : TloadOp), let x := getEddy s.blk e
    let size := imageBytes t.wfmt t.sgran t.sfmt
    let rank := ((t.todo.find? (fun p => p.1 == v)).map (·.2)).getD 0
    let todo := t.todo.filter (fun p => p.1 != v)
    let done (b : Block) (tile : Tile) (got : List Byte) :=
      let b := updEddy b e (fun x => putVane x v (loadTile (getVane x v) tile t.csacc))
      becomes s (settle (if todo = [] then dropOp b e i
        else setOp b e i (.tload { t with todo := todo, begun := t.begun.filter (· != v), got := got,
                                          gotPoison := false })) e)
    let tile : Tile := { fmt := t.wfmt, kv := t.kv, nv := t.nv, sgran := t.sgran, sfmt := t.sfmt, image := t.got,
                         poison := t.gotPoison }
    findOp (fun o => if loadsVane v o then isTload o else none) 0 x.matOps = some (i, t) → t.begun.contains v = true →
    x.vaneErr = [] → s.blk.power.hold = false →
    (t.fromFeed = false → leeClash x (x.matOps.take i) [(t.addr + rank * size, size)] [] = false →
      let r := leeBytesAt s.blk (t.addr + rank * size) size
      exec (.tileLoadComplete e v) s =
        done r.2 { tile with image := r.1.map (·.1), poison := r.1.any (·.2) } t.got) ∧
    (t.fromFeed = true → t.todo.head?.map (·.1) = some v → t.got.length = size →
      exec (.tileLoadComplete e v) s = done s.blk { tile with poison := decide (0 < size) && t.gotPoison } [])) ∧
  (∀ (s : State) (e i n pc : Nat) (vs : List Nat), let x := getEddy s.blk e
    x.matOps[i]? = some (n, .tswap pc vs) → takenUp x n = true → s.blk.power.hold = false →
    (∀ j m pc' vs', j < i → x.matOps[j]? = some (m, .tswap pc' vs') → swapReady x (x.matOps.take j) m vs' = []) →
    let now := vs.filter (fun v => shadowFull (getVane x v) &&
      !(x.matOps.take i).any (fun p => usesVane v p.2 || loadsVane v p.2 || swapsVane v p.2))
    let rest := vs.filter (fun v => !now.contains v)
    now ≠ [] →
    let b := updEddy s.blk e (fun x => now.foldl (fun x v => putVane x v (swapVane (getVane x v))) x)
    exec (.tswapEffect e) s = becomes s (settle (if rest = [] then dropOp b e i else setOp b e i (.tswap pc rest)) e)) ∧
  (∀ (s : State) (e i n : Nat) (mism : BitVec 8) (o : MmaOp), let x := getEddy s.blk e
    findOp isMma 0 x.matOps = some (i, o) → opPlace x i = n → mmaTakesUp x n = true →
    rowMayEnter x (x.matOps.take i) o = true → s.blk.power.hold = false →
    let run := scaleRun o.asgran o.asfmt
    let b0 := putEddy s.blk e (setQueue x 4 ((queueOf x 4).filter (fun q => q != .mma n)))
    let sc := if o.asgran = 0 then ([], b0) else leeBytesAt b0 (o.asaddr + o.next * run) run
    (∀ c, o.next = 0 → mmaFault x (x.matOps.take i) o = some c →
      exec (.rowEntry e mism) s = becomes s (taskFault s.blk e o.pc c)) ∧
    ((o.next = 0 → mmaFault x (x.matOps.take i) o = none) →
      (∀ b, addRows e o o.next sc.1 mism o.vanes.zipIdx sc.2 = .ok b →
        exec (.rowEntry e mism) s = becomes s (settle
          (if o.rows ≤ o.next + 1 then dropOp b e i else setOp b e i (.mma { o with next := o.next + 1 })) e)) ∧
      (∀ c, addRows e o o.next sc.1 mism o.vanes.zipIdx sc.2 = .error c →
        exec (.rowEntry e mism) s = becomes s (taskFault b0 e o.pc c)))) ∧
  (∀ (s : State) (e k : Nat) (o : DrainOp), let x := getEddy s.blk e
    findOp isDrain 0 x.matOps = some (k, o) → drainMayRead x (x.matOps.take k) (opPlace x k) o = true →
    s.blk.power.hold = false →
    (∀ c, o.next = 0 → drainStops s.blk e o = some c →
      exec (.drainSlotRead e) s = becomes s (taskFault s.blk e o.pc c)) ∧
    ((o.next = 0 → drainStops s.blk e o = none) →
      (∀ b, drainSlot s.blk e k o = .ok b → exec (.drainSlotRead e) s = becomes s (settle b e)) ∧
      (∀ c, drainSlot s.blk e k o = .error c → exec (.drainSlotRead e) s = becomes s (taskFault s.blk e o.pc c)))) ∧
  (∀ (s : State) (e first n mode place : Nat), let x := getEddy s.blk e
    queueOf x 4 = [.mat place] → x.matOps = [(place, .sclr first n mode)] → s.blk.power.hold = false →
    ∃ y, exec (.unitTakeUp e 4) s = eddyBecomes s e y ∧ y.matOps = [] ∧ queueOf y 4 = [] ∧
      ∀ i, getSlot y i = if first ≤ i ∧ i < first + n then { Slot.fresh with mode := mode } else getSlot x i)

/-- For an MMA alone in flight on one Vane, INT8 activations, an INT8 Tile without block scales, an INT32 Slot that is
fresh or has the Tile's column count, which the MAT unit takes up and none of whose rows will fault, with no stored
error in Lee or in the Slots, none at the Vane inputs and no residue mismatch: after the row enters, column j below NV
holds the old value plus the sum over k below KV of activation k times weight (k, j), clamped to 32 bits; the other
columns, every other Slot and all of Lee memory are as before. Activation k is the signed byte k of the row, weight
(k, j) the signed byte 64k + j of the Tile image. (R98, R99, R100, R107, R109, R110, R113, R120) -/
def Obligations.IntegerRowAddsDotProducts : Prop :=
  ∀ (s : State) (e n v : Nat) (o : MmaOp) (t : Tile) (mism : BitVec 8), let x := getEddy s.blk e
    let i := o.slot + o.next * o.mstr
    let q := getSlot x i
    x.matOps = [(n, .mma o)] → o.vanes = [v] → o.asgran = 0 → o.afmt = 4 → (getVane x v).active = some t →
    t.fmt = 4 → t.sgran = 0 → t.kv ≤ 64 → t.nv ≤ 64 → q.mode = 0 → (q.k = 0 ∨ q.nv = t.nv) →
    mmaTakesUp x n = true → (o.next = 0 → mmaFault x [] o = none) → s.blk.lee.err = [] → x.accErr = [] → x.vaneErr = [] →
    mism.getLsbD v = false → s.blk.power.hold = false →
    ∃ u, exec (.rowEntry e mism) s = .next u ∧ u.blk.lee = s.blk.lee ∧
      (∀ j, j < t.nv →
        signed 32 (Table.get 0 (getSlot (getEddy u.blk e) i).entries j).toNat =
          max (-2 ^ 31) (min (2 ^ 31 - 1) (signed 32 (Table.get 0 q.entries j).toNat +
            ((List.range t.kv).map (fun k => signed 8 (byteAt s.blk (o.addr + o.next * o.pitch + k)).toNat *
              signed 8 (t.image.getD (64 * k + j) 0).toNat)).sum))) ∧
      (∀ j, t.nv ≤ j → Table.get 0 (getSlot (getEddy u.blk e) i).entries j = Table.get 0 q.entries j) ∧
      (∀ p, p ≠ i → getSlot (getEddy u.blk e) p = getSlot x p)

/-- For every instruction row, Eddy and state in which exec answers t: fuses, queue, ports, links, ranges, codecs,
Gates, translation contexts, arbiters, start, power, security and host state are as before, of the seam all but the
counts and pending errors of the half-crossbars, and so is every other Eddy. With no stored error in Lee or in the
instruction word, every byte of Lee outside the destination ranges of the instruction word at the index reads as
before; a row that stores nothing has no such range. (R31, R47, R66, R82, R84, R91, R121, R137, R205) -/
def Obligations.InstructionsWriteOnlyTheirFootprint : Prop :=
  ∀ row ∈ instructionRows, ∀ (s t : State) (e : Nat), exec (row.1 e) s = .next t →
    (t.fuses = s.fuses ∧ t.pending = s.pending ∧ t.blk.links = s.blk.links ∧ t.blk.ranges = s.blk.ranges ∧
      t.blk.codecs = s.blk.codecs ∧ t.blk.gates = s.blk.gates ∧ t.blk.ctxs = s.blk.ctxs ∧
      t.blk.start = s.blk.start ∧ t.blk.power = s.blk.power ∧ t.blk.sec = s.blk.sec ∧ t.blk.host = s.blk.host ∧
      t.blk.ports = s.blk.ports ∧ t.blk.arbiters = s.blk.arbiters ∧
      t.blk.seam = { s.blk.seam with xbarEast := t.blk.seam.xbarEast, xbarWest := t.blk.seam.xbarWest,
                                     eastErr := t.blk.seam.eastErr, westErr := t.blk.seam.westErr }) ∧
    (∀ e', e' ≠ e → getEddy t.blk e' = getEddy s.blk e') ∧
    (s.blk.lee.err = [] → Table.find (getEddy s.blk e).imemErr (getEddy s.blk e).pc = none → ∀ a,
      (∀ r ∈ (footOf s.blk (getEddy s.blk e)
          (Table.get haltWord (getEddy s.blk e).imem (getEddy s.blk e).pc).toNat).writes,
        a < r.1 ∨ r.1 + r.2 ≤ a) → byteAt t.blk a = byteAt s.blk a)

/-- For a Current in which one stream has demand, its active transfer with a Lee source that is not gathered, the seam
in force, no stored error in Lee and none on the way: the grant moves n bytes, at most 512 and within one element; the
granted position is n further, the count of missed grants is 0, and every other stream is as before. Into a PLAIN Lee
destination, the destination bytes of the walk position then read as the source bytes did, and the delivered position
is n further too. Into a link, one packet of n bytes joins the queue of its VC; into a port or a link, every byte of
Lee reads as before and the delivered position stays until the bytes have left. (R198, R199, R204, R212, R214,
07_streams) -/
def Obligations.StreamGrantCopiesWalk : Prop :=
  ∀ (s : State) (n sid tte k : Nat) (x : Xfer) (rs : Region), let b := s.blk
    let q := getStream b sid
    let p := q.granted
    let m := grantBytes b q x
    grantOrder b n = [(sid, tte, k)] → q.active = some x → x.fine = false → x.index = false → epKind x.src = 0 →
    epLee b x.src = some rs → seamDown b = false → pathsClean b → b.lee.err = [] → 0 < x.eb →
    let src := regionAddr rs + sideOff x (!x.side) (epOff x.src) p
    ∃ t, exec (.streamGrant n) s = .next t ∧
      m ≤ 512 ∧ m ≤ x.eb - p % x.eb ∧ (epKind x.dst ≤ 2 → (getStream t.blk sid).granted = p + m) ∧
      (getStream t.blk sid).skipped = 0 ∧ (getStream t.blk sid).active = some x ∧
      (∀ j, j ≠ sid → getStream t.blk j = getStream b j) ∧ t.blk.eddies = b.eddies ∧ t.blk.lee.regions = b.lee.regions ∧
      (∀ rd, epKind x.dst = 0 → epLee b x.dst = some rd → rd.kind = .plain →
        let dst := regionAddr rd + sideOff x x.side (epOff x.dst) p
        (∀ i, i < m → byteAt t.blk (dst + i) = byteAt b (src + i)) ∧ (getStream t.blk sid).delivered = p + m ∧
        t.blk.ports = b.ports ∧ t.blk.links = b.links) ∧
      (epKind x.dst = 1 ∨ epKind x.dst = 2 →
        t.blk.lee = b.lee ∧ (getStream t.blk sid).delivered = q.delivered) ∧
      (epKind x.dst = 1 → t.blk.links = b.links ∧ ∀ f, f ≠ epPort x.dst → getPort t.blk f = getPort b f) ∧
      (epKind x.dst = 2 → t.blk.ports = b.ports ∧ ∃ pkt, pkt.owner = .stream sid m ∧
        t.blk.links = (updLink b (epLink x.dst) (fun y => pushPkt y (epVc x.dst) pkt)).links)

/-- For every output, every non-empty list of requests (TTE and place) with different places: with no count at 1,023,
the request granted has the smallest TTE and among those the lowest place; with counts at 1,023, it is the lowest
place among them. The winner's count becomes 0, every other requester's rises by 1 up to 1,023, no other count
changes, and no other output's counts change. (R126, R211, R212) -/
def Obligations.ArbiterGrantsByDeadline : Prop :=
  ∀ (s : State) (out : Nat) (reqs : List (Nat × Nat)), reqs ≠ [] → (reqs.map (·.2)).Nodup →
    let c (o q : Nat) := Table.get 0 (Table.get [] s.blk.arbiters o) q
    ∃ w ∈ reqs, ∃ t, exec (.arbiterGrant out reqs) s = .next t ∧
      ((∀ q ∈ reqs, c out q.2 < 1023) → ∀ q ∈ reqs, w.1 < q.1 ∨ w.1 = q.1 ∧ w.2 ≤ q.2) ∧
      ((∃ q ∈ reqs, 1023 ≤ c out q.2) → 1023 ≤ c out w.2 ∧ ∀ q ∈ reqs, 1023 ≤ c out q.2 → w.2 ≤ q.2) ∧
      (∀ o i, Table.get 0 (Table.get [] t.blk.arbiters o) i =
        if o = out ∧ i = w.2 then 0 else if o = out ∧ i ∈ reqs.map (·.2) then min 1023 (c o i + 1) else c o i) ∧
      t = { s with blk := { s.blk with arbiters := t.blk.arbiters } }

/-- For every stream sid of a running Current: a pending transfer of an idle stream becomes active at position 0 with
its first TTE; a whole element in a ring is published, W rising by the element's bytes; a tick makes the TTE of every
active transfer of the Current its next one, one less outside rate mode; a due deadline miss sets MISS and counts once
for the transfer, and the stream's first of the job records its event; with the seam in force a translation that ends
well puts the page in use; a fault with nothing outstanding stalls the stream at its cursor with context and address
captured and counted; RESUME clears the stall; ABORT ends the active transfer with 0x111 and marks the pending one
0x112; a complete transfer leaves the stream idle with status and byte count recorded, an aborted one also with its
cursor, and signals its Gate when GEN is set. (R199, R203, R204, R207, R209, R210, R221, R223, R224, R450) -/
def Obligations.StreamLifeCycle : Prop :=
  ∀ (s : State) (sid : Nat), let b := s.blk
    let q := getStream b sid
    (∀ x, q.active = none → q.pending = some x → x.ending = none → portLost b x = false → epIsRing b x.dst = false →
      b.power.hold = false → exec (.pendingActivate sid) s = becomes s (putStream b sid { q with
        active := some x, pending := none, stalled := false, miss := false, granted := 0, delivered := 0,
        published := 0, staged := [], arrived := [], page := none, bad := none, rangeHit := false,
        tte := firstTte b x })) ∧
    (∀ x r, q.active = some x → epLee b x.dst = some r → r.kind = .ring → 0 < x.eb →
      (q.published + 1) * x.eb ≤ q.delivered → b.power.hold = false →
      exec (.ringPublish sid) s = becomes s (putStream (putRegion b (epRegion x.dst)
        { r with ringW := (r.ringW + x.eb) % 2 ^ 32 }) sid { q with published := q.published + 1 })) ∧
    (∀ n, leeRuns b n = true → ∃ t, exec (.tteTick n) s = .next t ∧
      t = { s with blk := { b with streams := t.blk.streams } } ∧
      (∀ j, (j / 256 ≠ n ∨ (getStream b j).active = none) → getStream t.blk j = getStream b j) ∧
      (∀ j x, j / 256 = n → (getStream b j).active = some x → armRing x.arm.toNat = false →
        getStream t.blk j = { getStream b j with tte := (getStream b j).tte - 1 })) ∧
    (∀ x, q.active = some x → q.miss = false → missDue b q x = true → leeRuns b (sid / 256) = true →
      let d := putStream b sid { q with miss := true, missNoted := true, misses := satAdd 16 q.misses 1 }
      exec (.deadlineMiss sid) s = becomes s
        (if q.missNoted then laterReport d (0x1000 + sid) 0x113 else report d (0x1000 + sid) 0x113 0)) ∧
    (∀ x g gr b' pg, q.active = some x → isRemote x = true → q.stalled = false → q.bad = none → x.ending = none →
      q.granted < x.total → pageCovers q x q.granted = false → leeRuns b (sid / 256) = true → seamDown b = false →
      getRegion b (getCtx b x.ctx).region = some gr → (getCtx b x.ctx).valid = true →
      searchTable 18 b (regionAddr gr / 16) 0 (getCtx b x.ctx).entries
        (remoteStore x * 2 ^ 24 + remoteOff x q.granted / 2 ^ 21) none = (some (g, false), b') →
      pageOf b' g.toNat (remoteStore x) (remoteOff x q.granted) (epKind x.dst == 5) = some pg →
      exec (.pageTranslationDone sid) s = becomes s (putStream b' sid { getStream b' sid with page := some pg })) ∧
    (∀ x code p addr, q.active = some x → q.bad = some (code, p, addr) → q.stalled = false → x.ending = none →
      readsOut b sid = false → epKind x.src ≠ 5 → inFlight q = 0 → b.power.hold = false →
      let d := p / 128 * 128
      exec (.streamFault sid) s = becomes s (notify (report (putStream b sid { q with
        stalled := true, bad := none, delivered := d, granted := d, staged := [], arrived := [], page := none,
        cursor := x.cursorAt d, faultCtx := x.ctx, faultAddr := addr, faults := satAdd 16 q.faults 1 })
        (0x1000 + sid) code (BitVec.ofNat 128 (addr % 2 ^ 57 * 2 ^ 64 + x.ctx * 2 ^ 60 + d % 2 ^ 48)))
        (cplEntry 0 0 3 code sid d))) ∧
    (curUsable b (sid / 256) = true → q.stalled = true →
      exec (.strCmdResume sid) s = becomes s (putStream b sid { q with stalled := false, bad := none, page := none })) ∧
    (∀ x, curUsable b (sid / 256) = true → q.active = some x → x.ending = none → q.staged = [] →
      exec (.strCmdAbort sid) s = becomes s (closeOwner (putStream b sid { q with
        active := some { x with ending := some 0x111 }, stalled := false, bad := none,
        pending := q.pending.map (fun y => { y with ending := some 0x112 }) }) (.stream sid))) ∧
    (∀ x, q.active = some x → canComplete b sid q x = true → x.ending ≠ some 0x116 → b.power.hold = false →
      let n := min x.total q.delivered
      let d := putStream (markEnd b x) sid { q with
        active := none, stalled := false, miss := false, staged := [], arrived := [], page := none, bad := none,
        tte := 0x7FFFFFFF, skipped := 0, last := x.ending.getD (if q.rangeHit then 0x114 else 0), done := n,
        cursor := if x.ending = none ∨ x.ending = some 0x112 then q.cursor else x.cursorAt n }
      let d := if isRemote x then endWrites d sid else d
      exec (.transferComplete sid) s = becomes s (if armGen x.arm.toNat then
        unitSignal d (0x1000 + sid) (armGate x.arm.toNat) (armCount x.arm.toNat) else d))

/-- For every context below 16 and every word written: REGION takes the field; VALID becomes 1 only when the word sets
it and the table is in order or the context was VALID with the same Region; nothing else changes but what the banks do
as they read the table. With no stored error in Lee they do nothing, and the table is in order exactly when the Region
is PLAIN, persistent, of a usable Current and holds its entries, and they are clean and sorted without overlap. (R228,
R218, 07_streams) -/
def Obligations.ContextValidChecksTable : Prop :=
  (∀ (s : State) (c : Nat) (w : Word), c < 16 → let x := getCtx s.blk c
    let region := w.toNat % 4096
    let kept := x.valid && region == x.region
    let t := tableOk s.blk x region
    exec (.xltCtxValid c w) s = becomes s (putCtx (if w.getLsbD 31 && !kept then t.2 else s.blk) c
      { x with region := region, valid := w.getLsbD 31 && (kept || t.1) })) ∧
  (∀ (b : Block) (c : XltCtx) (region : Nat), b.lee.err = [] → let t := tableOk b c region
    t.2 = b ∧
    (t.1 = true ↔ ∃ r, getRegion b region = some r ∧ r.kind = .plain ∧ r.persistent = true ∧ curUsable b r.cur = true ∧
      16 * c.entries ≤ r.size ∧
      let entry (i : Nat) := (memGran b.lee.mem (regionAddr r / 16 + i)).toNat
      (∀ i, i < c.entries → regionAddr r / 16 + i ∉ b.lee.poison) ∧
      ∀ i, i + 1 < c.entries → entryKey (entry i) + (if bit (entry i) 126 then 512 else 1) ≤ entryKey (entry (i + 1))))

/-- FURL and UNFURL that are ready, with a usable descriptor address, offer their job and take a COD queue entry;
CWAIT goes on at once when the job described is DONE and nothing waits in the queue, and else holds issue until its
take-up finds DONE. With the seam in force and no stored error in Lee, a unit that runs with fewer than 4 queued jobs
accepts the first offer for it, from an Eddy or the host: the job of the clean descriptor joins its queue and DONE is
cleared; a job that is refused or has no input ends at once, its record in memory and DONE set; a poisoned descriptor
faults the Task with 0x20D or refuses the host's command. An idle unit starts the job at the head of its queue, which
ends at once with 0x504 or 0x404 when its port or link is not up; a job into a tile feed first binds the free feed. A
job whose end is known writes its 64-byte record with DONE and the code, leaves the unit idle and records the code in
LAST; a job into a feed then lets the feed's Task go on. CLR_COUNTS sets the counts of a unit that is present to 0.
(R186, R187, R185, R188, R190, R192, R340, 06_furl_unfurl) -/
def Obligations.CodecJobsRun : Prop :=
  (∀ (s : State) (e w a : Nat), let x := getEddy s.blk e
    codAddr s.blk e w 128 = .ok a →
    let offered (unf : Bool) := becomes s (putEddy { s.blk with codOffers := s.blk.codOffers ++
      [⟨.eddy e x.pc, unf, e / 16, fld w 109 104, a⟩] } e (continueAt (pushQueue x 8 .codJob) .next))
    let met := cwaitMet s.blk a
    (ready s.blk e w 8 0 = true → exec (.furl e) s = offered false) ∧
    (ready s.blk e w 8 1 = true → exec (.unfurl e) s = offered true) ∧
    (ready s.blk e w 8 2 = true → exec (.cwait e) s = becomes s (putEddy met.2 e (continueAt
      (if met.1 && (queueOf x 8).isEmpty then pushQueue x 8 .plain
       else { pushQueue x 8 (.cwait a) with wait := .unit 8 }) .next))) ∧
    (∀ q, queueOf x 8 = .cwait a :: q → met.1 = true → s.blk.power.hold = false →
      exec (.unitTakeUp e 8) s = becomes s (putEddy met.2 e (setQueue { x with wait := .none } 8 q)))) ∧
  (∀ (s : State) (u i v : Nat) (o : CodOffer), let b := s.blk
    unitExists u = true → unitRuns b u = true → (getCodec b u).queue.length < 4 →
    firstOffer b u [] b.codOffers = some (i, o) → b.lee.err = [] → seamDown b = false → b.power.hold = false →
    let b1 := leaveQueue { b with codOffers := dropAt b.codOffers i } o.origin
    let j := codJobOf o.unfurl o.desc v
    let tasks := match o.origin with
      | .eddy _ _ => true
      | .host _ => false
    (markedNat (leeBytesAt b o.desc 64).1 = (v, true) →
      (∀ e pc, o.origin = .eddy e pc → exec (.codJobAccept u) s = becomes s (taskFault b1 e pc 0x20D)) ∧
      (∀ src, o.origin = .host src → exec (.codJobAccept u) s = becomes s (finishCmd b1 src 0x20D 0 0))) ∧
    (markedNat (leeBytesAt b o.desc 64).1 = (v, false) → o.desc % 16 = 0 →
      ∃ t, exec (.codJobAccept u) s = .next t ∧ t.blk.codOffers = dropAt b.codOffers i ∧
        (∀ src, o.origin = .host src → t.blk.host = (finishCmd b src 0 0 0).host) ∧
        (codRefusal b1 u tasks j v = none →
          getCodec t.blk u = { getCodec b u with queue := (getCodec b u).queue ++ [j] } ∧
          (cwaitMet t.blk o.desc).1 = false) ∧
        (∀ c, codRefusal b1 u tasks j v = some c →
          (getCodec t.blk u).queue = (getCodec b u).queue ∧ (getCodec t.blk u).last = c ∧
          (∀ k, k < 64 → byteAt t.blk (o.desc + 0x40 + k) = (codRecord (CodRun.fresh j) c).getD k 0) ∧
          (cwaitMet t.blk o.desc).1 = true))) ∧
  (∀ (s : State) (u : Nat) (j : CodJob) (q : List CodJob), let b := s.blk
    (getCodec b u).run = none → (getCodec b u).queue = j :: q → unitRuns b u = true →
    (j.toFeed = false ∨ feedReady b u j = true →
      exec (.codJobStart u) s = becomes s (putCodec b u { getCodec b u with
        queue := q
        run := some { CodRun.fresh j with
          ending := if codPortLost b j then some 0x504 else if codLinkLost b j then some 0x404 else none } })) ∧
    (unitExists u = true → j.toFeed = true → (getFeed b (feedOf u j)).bound = false →
      exec (.feedBind u) s = becomes s (putFeed b (feedOf u j) ⟨true, fld j.dst 47 44, unitNum u, true, []⟩))) ∧
  (∀ (s : State) (u code : Nat) (r : CodRun), let b := s.blk
    (getCodec b u).run = some r → codEnds r = some code → code < 0x1000 → b.lee.err = [] → seamDown b = false →
    b.power.hold = false →
    ∃ b', exec (.codJobEnd u) s =
        becomes s (if r.job.toFeed then settle b' (16 * unitCur u + fld r.job.dst 47 44) else b') ∧
      (getCodec b' u).run = none ∧ (getCodec b' u).last = code ∧ (getCodec b' u).queue = (getCodec b u).queue ∧
      (∀ i, i < 64 → byteAt b' (r.job.desc + 0x40 + i) = (codRecord r code).getD i 0) ∧
      (∀ a, a < r.job.desc + 0x40 ∨ r.job.desc + 0x80 ≤ a → byteAt b' a = byteAt b a) ∧
      (cwaitMet b' r.job.desc).1 = true) ∧
  (∀ (s : State) (u : Nat), unitExists u = true →
    ((unitLink u).map (linkPresent s.blk)).getD (curUsable s.blk (unitCur u)) = true →
    exec (.codCtrlClrCounts u) s = becomes s (putCodec s.blk u { getCodec s.blk u with
      blocks := 0, bytesIn := 0, bytesOut := 0, inHi := 0, outHi := 0, errHi := 0, errLo := 0 }))

/-- For every run of a unit whose clock runs, out of Hold where it takes new input, and whose job need not cross a
seam without a channel. FURL_BLOCK_RELEASE: with input at hand and fewer than 2 blocks held, the next block, with its
scale block in a paired job, is coded, counted and held when its output fits, each block stored by R173 counting in
ERR_HI; else the job ends with OUT_FULL. FURL_BLOCK_WRITE: the first held block, once its LAST is known and its
destinations take it, leaves with its frame header when it opens a frame, and is counted. UNFURL_HEADER: a clean frame
header of the due kind begins its frame, 32 bytes further; a block header that keeps the checks is taken, 16 bytes
further; at the end of the input outside a frame and a pair the job ends with 0; an input that ends short ends it with
0x204. UNFURL_BLOCK_RELEASE: the block under an accepted header is decoded; a scale block joins the pair buffer, a
data block goes out with its scale block and is counted, and one that R177 poisons counts in ERR_HI. In Lee, with no
stored error and none on the way, the bytes written behind the output so far are those of the block. (R161, R172,
R173, R174, R177, R178, R180, R182, R183, R192, 06_furl_unfurl) -/
def Obligations.CodecBlocksMove : Prop :=
  (∀ (s : State) (u : Nat) (r : CodRun) (l : Marked) (b1 : Block), let b := s.blk
    let j := r.job
    (getCodec b u).run = some r → j.unfurl = false → furlGoes r = true → r.held.length < 2 → unitRuns b u = true →
    codecBarred b u = false → furlInput b u r = some (l, b1) → b.power.hold = false →
    let opens := r.dataBlocks % 16 == 0
    let tag := (j.tag + r.dataBlocks) % 256
    let past (h : List Byte) := if opens then [] else h
    let sc := if j.paired then codRead b1 u j.ssrc r.staken (l.length / 2 ^ j.ratio) else ([], b1)
    let k := furlBlock j tag (past r.hist) l
    let ks := if j.paired then some (furlBlock j tag (past r.shist) sc.1) else none
    let vfb := vfbOf k + (ks.map vfbOf).getD 0
    let taken := r.taken + l.length
    let staken := r.staken + (if j.paired then l.length / 2 ^ j.ratio else 0)
    let fits := r.outDone + heldOut r.held + heldSize opens k ≤ j.outLimit ∧
      ∀ q, ks = some q → r.soutDone + heldSout r.held + heldSize opens q ≤ j.soutLimit
    ∃ t, exec (.furlBlockRelease u) s = .next t ∧ t.blk.lee = sc.2.lee ∧
      (fits → (getCodec t.blk u).run = some { r with
          taken := taken, staken := staken, inbuf := if j.stash then r.inbuf.drop l.length else [],
          hist := past r.hist ++ l.map (·.1), shist := past r.shist ++ sc.1.map (·.1),
          dataBlocks := r.dataBlocks + 1, fallbacks := r.fallbacks + vfb,
          held := r.held ++ [⟨k, ks, opens, taken, staken⟩] } ∧
        (getCodec t.blk u).bytesIn = (getCodec b u).bytesIn + BitVec.ofNat 64 (l.length + sc.1.length) ∧
        (0 < vfb → (getCodec t.blk u).errHi = satAdd 16 (getCodec b u).errHi vfb)) ∧
      (¬fits → (getCodec t.blk u).run = some { r with ending := some 0x201 })) ∧
  (∀ (s : State) (u : Nat) (r : CodRun) (h : HeldBlk) (q : List HeldBlk) (last : Bool), let b := s.blk
    let j := r.job
    (getCodec b u).run = some r → r.held = h :: q → heldLast r = some last → codecBarred b u = false →
    unitRuns b u = true →
    epRoom b j.dst = true → (j.paired = true → epRoom b j.sdst = true) →
    let frame := j.frameNo + (if h.opens then r.frames else r.frames - 1)
    let d := blockBytes j 0 frame h.opens last h.data
    let sc := (h.scale.map (blockBytes j 1 frame h.opens last)).getD []
    let n := 1 + b2n h.scale.isSome
    ∃ t z, exec (.furlBlockWrite u) s = .next t ∧ (getCodec t.blk u).run = some z ∧ z.held = q ∧
      z.outDone = r.outDone + d.length ∧ z.soutDone = r.soutDone + sc.length ∧ z.inDone = h.inDone ∧
      z.sinDone = h.sinDone ∧ z.blocks = r.blocks + n ∧ z.frames = (if h.opens then r.frames + 1 else r.frames) ∧
      z.poisoned = r.poisoned + b2n h.data.poison + b2n (h.scale.any (·.poison)) ∧
      (getCodec t.blk u).blocks = (getCodec b u).blocks + BitVec.ofNat 32 n ∧
      (getCodec t.blk u).bytesOut = (getCodec b u).bytesOut + BitVec.ofNat 64 (d.length + sc.length) ∧
      (b.lee.err = [] → pathsClean b →
        (epKind j.dst = 0 → r.waiting = [] →
          ∀ i, i < d.length → byteAt t.blk (epAddr b j.dst + r.outDone + i) = (d.getD i (0, false)).1) ∧
        (epKind j.dst = 2 → j.paired = false → r.waiting = [] → h.scale = none →
          t.blk.lee = b.lee ∧ ∃ m : Marked, m.map (·.1) = d.map (·.1) ∧ getLink t.blk (epLink j.dst) =
            (chunks m.length 512 m).foldl (fun y p => pushPkt y (epVc j.dst) (egressPkt (.codec u p.length) p))
              (getLink b (epLink j.dst))))) ∧
  (∀ (s : State) (u : Nat) (r : CodRun), let b := s.blk
    let j := r.job
    (getCodec b u).run = some r → j.unfurl = true → r.ending = none → r.hdr = none → unitRuns b u = true →
    (j.ingress = true → r.seg.any (fun g => !g.stopped && !g.ignored && (getRange b g.range).expand) = true) →
    codecBarred b u = false → b.power.hold = false →
    let paired := runPaired b r
    let input := codedAvail b r
    let h (n : Nat) := codedRead b u r n
    (∀ kind, r.inFrame = false → 32 ≤ input.1 → (h 32).1.any (·.2) = false →
      frameKind ((h 32).1.map (·.1)) = some kind →
      (paired = true → ((kind = 1) ↔ r.pairs = [])) →
      ∃ t z, exec (.unfurlHeader u) s = .next t ∧ (getCodec t.blk u).run = some z ∧ z.inFrame = true ∧
        z.scaleFrame = (paired && r.pairs.isEmpty) ∧ z.blkInFrame = 0 ∧ z.hist = [] ∧
        z.taken = (codedTake r 32).taken ∧ z.staken = (codedTake r 32).staken ∧ z.inbuf = (codedTake r 32).inbuf) ∧
    (∀ mode last tag raw coded dcrc, r.inFrame = true → r.blkInFrame ≠ 16 → 16 ≤ input.1 →
      (h 16).1.any (·.2) = false → blockFields ((h 16).1.map (·.1)) = some (mode, last, tag, raw, coded, dcrc) →
      (paired = true → r.scaleFrame = false → tag = pairTag r ∧ r.pairs.head?.map (·.1) = some (pairTag r)) →
      limitPassed b r r.scaleFrame raw = false → (input.2 = true → 16 + coded ≤ input.1) →
      ∃ t, exec (.unfurlHeader u) s = .next t ∧ (getCodec t.blk u).run =
        some { codedTake r 16 with hdr := some ⟨mode, last, tag, raw, coded, dcrc⟩ }) ∧
    (j.ingress = false → r.inFrame = false → r.pairs = [] → input.1 = 0 → j.inBytes ≤ r.taken →
      ∃ t, exec (.unfurlHeader u) s = .next t ∧ (getCodec t.blk u).run = some { r with ending := some 0 }) ∧
    (j.ingress = false → input.1 < (if r.inFrame then 16 else 32) → (0 < input.1 ∨ r.inFrame = true) →
      ∃ t, exec (.unfurlHeader u) s = .next t ∧ (getCodec t.blk u).run = some { r with ending := some 0x204 })) ∧
  (∀ (s : State) (u : Nat) (r : CodRun) (h : BlkHdr), let b := s.blk
    let j := r.job
    (getCodec b u).run = some r → r.hdr = some h → r.ending = none → unitRuns b u = true →
    (b.power.hold = true → j.ingress = true) →
    (r.scaleFrame = false → outRoom b u r h.raw = true) → codecBarred b u = false → h.coded ≤ (codedAvail b r).1 →
    (h.last = true → r.scaleFrame = false → r.pairs.drop 1 = []) →
    let x := expandBlock h r.hist (codedRead b u r h.coded).1
    let pair := r.pairs.head?.map (fun p => p.2.2)
    ∃ t z, exec (.unfurlBlockRelease u) s = .next t ∧ (getCodec t.blk u).run = some z ∧ z.hdr = none ∧
      z.blkInFrame = r.blkInFrame + 1 ∧ z.hist = r.hist ++ x.1.map (·.1) ∧
      z.inFrame = (r.inFrame && !h.last) ∧ z.taken = (codedTake r h.coded).taken ∧
      z.staken = (codedTake r h.coded).staken ∧
      (getCodec t.blk u).errHi = (if x.2.isSome then satAdd 16 (getCodec b u).errHi 1 else (getCodec b u).errHi) ∧
      (r.scaleFrame = true → z.pairs = r.pairs ++ [(h.tag, r.staken + h.coded, x.1)] ∧
        z.outDone = r.outDone ∧ z.soutDone = r.soutDone ∧ z.dataBlocks = r.dataBlocks) ∧
      (r.scaleFrame = false → z.pairs = r.pairs.drop 1 ∧ z.outDone = r.outDone + x.1.length ∧
        z.soutDone = r.soutDone + (pair.getD []).length ∧ z.dataBlocks = r.dataBlocks + 1 ∧
        (j.ingress = false → r.seg = none → epKind j.dst = 0 → b.lee.err = [] → pathsClean b →
          ∀ i, i < x.1.length →
            byteAt t.blk (epAddr b j.dst + r.outDone + i) = (x.1.getD i (0, false)).1)))

/-- For every Furl job, tag, history of the frame and block of marked bytes: the block that Furl releases, expanded by
Unfurl after the same history, gives back the bytes of the block. A clean block comes back clean and raises no code; a
block with a poisoned granule is stored, and comes back with every byte marked. The proposals of the encoder are open
(log 12): the statement holds for every one of them, because a coding that does not verify is stored. (R173, R175,
R177, R163, 06_furl_unfurl) -/
def Obligations.FurlRoundTrip : Prop :=
  ∀ (j : CodJob) (tag : Nat) (last : Bool) (hist : List Byte) (l : Marked),
    let k := furlBlock j tag hist l
    let back := expandBlock ⟨k.mode, last, k.tag, k.raw, k.payload.length, k.dcrc⟩ hist (markAll k.poison k.payload)
    back.1.map (·.1) = l.map (·.1) ∧ back.2 = none ∧ k.raw = l.length ∧ k.payload.length ≤ l.length ∧
    (∀ p ∈ back.1, p.2 = l.any (·.2))

/-- For the first granule that a port has read out, bound for offset off of Region id, with no error waiting on its
path, in its granule g or in the header: in a PLAIN Region that holds it, and in the data area of an ARMED REDUCE
Region, g becomes the incoming granule (code 0) or the atomic result of the old and the incoming one, marked when the
incoming granule, or under an atomic the stored one, is; every other byte is as before, but for the REDUCE Region's
STATUS, which shows POISON for a poisoned add and keeps its other bits. Beyond the end of the Region, in a reduction
header, in a RING or a STASH Region it is refused: Lee bytes unchanged, REFUSED one higher up to 0xFFFF. In a REDUCE
Region that is not ARMED it is late: LATE and the Current's count one higher, every byte outside STATUS unchanged.
While an arm zeroes the Region it is held. Where the seam must carry it and has no active channel, it is lost: Lee
stays, and a running job that holds the Region stops. Of 0x3 every 32-bit lane is the sum modulo 2^32; 0x4 and 0x5
store one of the two 8-byte elements unchanged. (R234, R235, R236, R237, R239, R241, R56, R240) -/
def Obligations.AtomicsApplyAtRegions : Prop :=
  (∀ (s : State) (f n c id op off : Nat) (d : Granule) (p : Bool) (r : Region) (pre post : List (Nat × Nat × RxOp)),
    (getPort s.blk f).ops = pre ++ (n, c, .gran id op off d p) :: post → (∀ o ∈ pre, isGran o.2.2 = false) →
    getRegion s.blk id = some r → pathsClean s.blk → s.blk.power.hold = false →
    let g := (regionAddr r + off) / 16
    let barred := seamBars s.blk (portHalf f) (curHalf r.cur)
    let header := regionAddr r % 16 = 0 ∧ Table.find s.blk.lee.err (regionAddr r / 16) = none
    let area := r.kind = .reduce ∧ 64 ≤ off ∧ header ∧ r.zero ≠ .arm
    ∃ t, exec (.atomicApply f) s = .next t ∧ (getPort t.blk f).ops = pre ++ post ∧
      (barred = true → t.blk.lee = s.blk.lee ∧
        (r.held = true → s.blk.job.running = true → t.blk.job.stop.isSome = true)) ∧
      (barred = false →
        (off + 16 ≤ r.size → Table.find s.blk.lee.err g = none →
          r.kind = .plain ∨ (area ∧ redArmed s.blk r = true) →
          memGran t.blk.lee.mem g = (if op = 0 then d else atomicResult op (memGran s.blk.lee.mem g) d) ∧
          t.blk.lee.poison.contains g = (p || (op != 0 && s.blk.lee.poison.contains g)) ∧
          (∀ a, (a < 16 * g ∨ 16 * g + 16 ≤ a) → (r.kind = .reduce → a < regionAddr r + 8 ∨ regionAddr r + 16 ≤ a) →
            byteAt t.blk a = byteAt s.blk a) ∧
          (r.kind = .reduce → redStatus t.blk r =
            if p && op != 0 then setFld (redStatus s.blk r) 61 61 1 else redStatus s.blk r)) ∧
        (r.size < off + 16 ∨ (r.kind = .reduce ∧ off < 64) ∨ r.kind = .ring ∨ r.kind = .stash →
          t.blk.lee.mem = s.blk.lee.mem ∧ t.blk.lee.poison = s.blk.lee.poison ∧
          (getCur t.blk r.cur).atomRefused = min 0xFFFF ((getCur s.blk r.cur).atomRefused + 1) ∧
          (getCur t.blk r.cur).atomLate = (getCur s.blk r.cur).atomLate) ∧
        (off + 16 ≤ r.size → area → redArmed s.blk r = false →
          redStatus t.blk r = setFld (redStatus s.blk r) 31 12 (min 0xFFFFF (fld (redStatus s.blk r) 31 12 + 1)) ∧
          (getCur t.blk r.cur).atomLate = min 0xFFFF ((getCur s.blk r.cur).atomLate + 1) ∧
          (getCur t.blk r.cur).atomRefused = (getCur s.blk r.cur).atomRefused ∧
          ∀ a, (a < regionAddr r + 8 ∨ regionAddr r + 16 ≤ a) → byteAt t.blk a = byteAt s.blk a) ∧
        (r.kind = .reduce → 64 ≤ off → off + 16 ≤ r.size → r.zero = .arm →
          t.blk.lee.mem = s.blk.lee.mem ∧
          getRegion t.blk id = some { r with waiting := r.waiting ++ [(f, n, .gran id op off d p)] }))) ∧
  (∀ (x y : Granule) (i : Nat), i < 4 →
    fld (atomicResult 3 x y).toNat (32 * i + 31) (32 * i) =
      (fld x.toNat (32 * i + 31) (32 * i) + fld y.toNat (32 * i + 31) (32 * i)) % 2 ^ 32) ∧
  (∀ (larger : Bool) (x y : Granule) (i : Nat), i < 2 →
    let v := fld x.toNat (64 * i + 63) (64 * i)
    let w := fld y.toNat (64 * i + 63) (64 * i)
    fld (atomicResult (if larger then 4 else 5) x y).toNat (64 * i + 63) (64 * i) =
      if extremeWins larger v w then w else v)

/-- For the first contribution end that a port has read out, with no granule of its class for its Region before it: in
an ARMED REDUCE Region that no arm is zeroing, COUNT rises by 1. When that makes EXPECT, ARMED becomes 0 and COMPLETE
1, and with GEN set the Gate that the arm took is signalled by its GCOUNT. Below EXPECT, ARMED, COMPLETE and every
Gate stay. Nothing of Lee outside STATUS changes. While the Region is not ARMED the end is late: LATE rises by 1 up to
0xF_FFFF and COUNT stays. While an arm zeroes the Region it is held; where the seam carries nothing it is lost, and a
running job that holds the Region stops. A granule of the same class for the same Region that came before keeps the
contribution end from counting. (R238, R240, R241, R44, R450, R251) -/
def Obligations.ContributionsCount : Prop :=
  ∀ (s : State) (f n c id : Nat) (r : Region) (pre post : List (Nat × Nat × RxOp)),
    (getPort s.blk f).ops = pre ++ (n, c, .cend id) :: post → (∀ o ∈ pre, ∀ j, o.2.2 ≠ .cend j) →
    s.blk.power.hold = false →
    ((∃ o ∈ pre, isGranOf c id o = true) → (∀ o ∈ post, ∀ j, o.2.2 ≠ .cend j) → exec (.contributionEnd f) s = .next s) ∧
    ((∀ o ∈ pre, isGranOf c id o = false) → getRegion s.blk id = some r → r.kind = .reduce →
      let st := redStatus s.blk r
      let barred := seamBars s.blk (portHalf f) (curHalf r.cur)
      ∃ t, exec (.contributionEnd f) s = .next t ∧ (getPort t.blk f).ops = pre ++ post ∧
        (barred = true → t.blk.lee = s.blk.lee ∧ t.blk.gates = s.blk.gates ∧
          (r.held = true → s.blk.job.running = true → t.blk.job.stop.isSome = true)) ∧
        (barred = false → regionAddr r % 16 = 0 → Table.find s.blk.lee.err (regionAddr r / 16) = none →
          (∀ a, (a < regionAddr r + 8 ∨ regionAddr r + 16 ≤ a) → byteAt t.blk a = byteAt s.blk a) ∧
          (redArmed s.blk r = true → r.zero ≠ .arm → fld st 47 32 < r.expect → r.expect ≤ 0xFFFF →
            fld (redStatus t.blk r) 47 32 = fld st 47 32 + 1 ∧ fld (redStatus t.blk r) 31 0 = fld st 31 0 ∧
            bit (redStatus t.blk r) 61 = bit st 61 ∧
            (bit (redStatus t.blk r) 63 = decide (fld st 47 32 + 1 ≠ r.expect)) ∧
            (bit (redStatus t.blk r) 62 = (decide (fld st 47 32 + 1 = r.expect) || bit st 62)) ∧
            t.blk.gates = (if fld st 47 32 + 1 = r.expect ∧ r.gen = true then
              (unitSignal s.blk (0x7000 + id) r.gate r.gcount).gates else s.blk.gates)) ∧
          (redArmed s.blk r = false → r.zero ≠ .arm →
            redStatus t.blk r = setFld st 31 12 (min 0xFFFFF (fld st 31 12 + 1)) ∧ t.blk.gates = s.blk.gates) ∧
          (r.zero = .arm → redStatus t.blk r = st ∧ t.blk.gates = s.blk.gates ∧
            getRegion t.blk id = some { r with waiting := r.waiting ++ [(f, n, .cend id)] })))

/-- For the first arm that has landed on a Region: a poisoned word is refused with ARMST 0x60E and stops the job; a
Region ARMED or being zeroed by an arm refuses with 0x607; EXPECT 0, or GEN with GCOUNT 0, refuses with 0x604; a
refusal changes no byte but ARMST, so ARMWORD keeps its value. An accepted arm leaves in ARMWORD what it carried with
ARM reading 0, takes GATE, GCOUNT, GEN and EXPECT, and STATUS becomes 0 but for ARMED, which is 1 unless the data area
is to be zeroed first; either way a host command ends. Another zeroing that runs holds the arm. In each Lee cycle of a
zeroing every bank writes one bank word of the range, in ascending order. The end of an arm's zeroing, the Lee clock
running, makes every byte still to be written 0 and clean, sets ARMED, leaves every other byte but STATUS, and then
places the operations it held. The zeroing of region_zero clears what is left of its range and nothing else, and its
command ends; that of a freed Region clears it and frees its ID. At the start all of the range is left. A scrub of a
bank in service takes its row and moves to the next, from the last to the first; with no stored error it changes no
byte. (R238, R239, R242, R243, R413, R37, R56) -/
def Obligations.ArmsAndZero : Prop :=
  (∀ (s : State) (id : Nat) (r : Region) (w : DWord) (poison : Bool) (src : ArmSrc) (rest : List ArmReq),
    getRegion s.blk id = some r → r.armReqs = ⟨w, poison, src⟩ :: rest → s.blk.power.hold = false →
    regionAddr r % 16 = 0 → Table.find s.blk.lee.err (regionAddr r / 16) = none →
    let busy := redArmed s.blk r = true ∨ r.zero = .arm
    let bad := fld w.toNat 15 0 = 0 ∨ (bit w.toNat 61 = true ∧ fld w.toNat 47 32 = 0)
    let code := if poison then 0x60E else if redArmed s.blk r || r.zero = .arm then 0x607 else 0x604
    (poison = true ∨ busy ∨ bad ∨ r.zero = .none →
      ∃ t, exec (.reduceArm id) s = .next t ∧
        (∀ a, (a < regionAddr r ∨ regionAddr r + 16 ≤ a) → byteAt t.blk a = byteAt s.blk a) ∧
        (poison = true ∨ busy ∨ bad → armword t.blk r = armword s.blk r ∧
          getRegion t.blk id = some { r with armReqs := rest } ∧
          redStatus t.blk r = setFld (redStatus s.blk r) 11 0 code ∧
          (poison = true → s.blk.job.running = true → t.blk.job.stop.isSome = true) ∧
          (∀ h, src = .host h → poison = false → Table.find t.blk.host.running h = none)) ∧
        (poison = false → ¬busy → ¬bad →
          (armword t.blk r).toNat = setFld w.toNat 63 63 0 ∧
          redStatus t.blk r = (if bit w.toNat 62 then 0 else 2 ^ 63) ∧
          getRegion t.blk id = some { r with
            armReqs := rest
            gate := fld w.toNat 60 48
            gcount := fld w.toNat 47 32
            gen := bit w.toNat 61
            expect := fld w.toNat 15 0
            zero := if bit w.toNat 62 then .arm else .none } ∧
          (∀ h, src = .host h → Table.find t.blk.host.running h = none))) ∧
    (poison = false → ¬busy → ¬bad → r.zero ≠ .none → exec (.reduceArm id) s = .next s)) ∧
  (∀ (s : State) (id : Nat) (r : Region), let b := s.blk
    getRegion b id = some r → leeRuns b r.cur = true →
    let lo := regionAddr r
    let z := zeroRange r
    let next (m : Nat) (a : Nat) := zeroPart b (addrEddy a) z.1 z.2 r.zeroDone m
    (∀ a, z.1 ≤ a → a < z.1 + z.2 → isBacked b a = true ∧ addrCur a = r.cur) →
    let in_ (a : Nat) := z.1 ≤ a ∧ a < z.1 + z.2
    let left (a : Nat) := in_ a ∧ (next (r.zeroDone + 1) a).1 ≤ a
    (r.zero = .arm → lo % 16 = 0 → r.size % 16 = 0 → Table.find b.lee.err (lo / 16) = none →
      ∃ u, exec (.zeroEnd id) s = becomes s (r.waiting.foldl placeOp u) ∧
        redStatus u r = setFld (redStatus b r) 63 63 1 ∧
        (∀ a, left a → byteAt u a = 0 ∧ u.lee.poison.contains (a / 16) = false) ∧
        (∀ a, (a < lo + 8 ∨ lo + 16 ≤ a) → ¬left a → byteAt u a = byteAt b a) ∧
        getRegion u id = some { r with zero := .none, zeroDone := 0, waiting := [] }) ∧
    (∀ src off len, r.zero = .host src off len →
      ∃ t, exec (.zeroEnd id) s = .next t ∧ getRegion t.blk id = some { r with zero := .none, zeroDone := 0 } ∧
        Table.find t.blk.host.running src = none ∧
        ∀ a, (left a → byteAt t.blk a = 0) ∧ (¬left a → byteAt t.blk a = byteAt b a)) ∧
    (∀ src, r.zero = .free src →
      ∃ t, exec (.zeroEnd id) s = .next t ∧ getRegion t.blk id = none ∧
        ∀ a, (left a → byteAt t.blk a = 0) ∧ (¬left a → byteAt t.blk a = byteAt b a)) ∧
    (r.zeroDone = 0 → ∀ a, in_ a → left a) ∧
    (r.zero ≠ .none →
      getRegion (zeroCycle b id) id = some { r with zeroDone := r.zeroDone + 1 } ∧
      ∀ a, byteAt (zeroCycle b id) a =
        (let p := next (r.zeroDone + 1) a
        if in_ a ∧ p.1 ≤ a ∧ a < p.1 + p.2 then 0 else byteAt b a))) ∧
  (∀ (s : State) (i k : Nat), i < 128 → (banksInService s.blk i).contains k = true → leeRuns s.blk (i / 16) = true →
    (getCur s.blk (i / 16)).scrubEn = true → s.blk.lee.err = [] →
    ∃ t, exec (.scrubTick i k) s = .next t ∧ t.blk.lee.mem = s.blk.lee.mem ∧ t.blk.lee.poison = s.blk.lee.poison ∧
      (getBank t.blk i k).row =
        (if (getBank s.blk i k).row + 1 < 8192 then (getBank s.blk i k).row + 1 else 0))

/-- For every state whose Lee memory lists its bytes at strictly rising addresses and lists no byte equal to the 0
that an unlisted address reads as: whatever command stands at the front of the queue, and on an empty queue, the state
after the step has the same form. So a byte of Lee has one value at every moment, and two Lee memories that read alike
at every address are the same data. (The list form and the reset reading of 0 are the model's choice, log 5.) (R4,
R30, R33, R230, R233, R242, 08_lee_memory) -/
def Obligations.MemoryStaysCanonical : Prop :=
  ∀ s t : State, memoryWf s.blk = true → step s = .next t → memoryWf t.blk = true

/-- On a link that carries flits, for every flit and every list of corrections: the corrections count on their lanes;
an encrypted direction holds the flit and acts on none. Otherwise an IDLE or DATA header frees what it acknowledges or
marks for replay what it refuses (a retrain of an UP link at the limit), and adds the rise of CREDITS on its VC; any
other type does nothing. A DATA flit of VC0 is taken at any SEQ, a gap cutting the packet in progress; one of VC2, or
of VC3 under a credit, delivers its packets when it is the next one; else a later one asks for a NAK and a repeated
one is dropped. An uncorrectable codeword asks for NAKs on VC1 to VC3, cuts a VC0 packet or damages the group; the
fourth in a row on an UP link starts a retrain. A SEAL of a group that verifies delivers its flits deciphered; any
other group is discarded whole and counts AUTH_FAIL. A timeout on a link in UP or HOLD sends the VC again from its
oldest unacknowledged entry and counts; at the limit an UP link retrains. Sending: after 63 flits of an encrypted
group its SEAL; else an entry to repeat, a new DATA flit with the next SEQ, one credit and a replay entry, or an IDLE
flit; each header acknowledges in rotation. The VC that sends is one that can; with nothing to repeat and none passed
over 1,023 times, one of the smallest TTE (the order among VCs is the model's choice, log 153). (R273, R277, R278,
R279, R280, R289, R299, R301, R303, R304, R300, R211) -/
def Obligations.LinkFlitsAndReplay : Prop :=
  (∀ (s : State) (l : Nat) (flit : BitVec 4096) (corr : List (Nat × Nat)), let k := getLink s.blk l
    let h := flit.toNat % 2 ^ 64
    let acts := fld h 63 60 = 0 ∨ fld h 63 60 = 1
    let data (vc : Nat) := fld h 63 60 = 1 ∧ fld h 59 58 = vc
    let seq := fld h 57 42
    let avc := fld h 40 39
    let aseq := fld h 38 23
    let took (r : RxStream) := takePayload { r with expect := (seq + 1) % 65536 } (fld h 11 6) (flitPayload flit)
    linkPresent s.blk l = true → sendsFlits k = true →
    ∃ t, exec (.linkFlitReceive l flit corr) s = .next t ∧
      (let y := getLink t.blk l
       (∀ i, i < 17 → (getLane y i).corr =
         (getLane k i).corr + BitVec.ofNat 32 ((corr.filter (fun p => p.1 == i)).map (·.2)).sum) ∧
       (k.encRx = true → y.rxFlits = (if k.rxFlits.length < 64 then k.rxFlits ++ [flit] else k.rxFlits) ∧
         y.replay = k.replay ∧ y.v0 = k.v0 ∧ y.in2 = k.in2 ∧ y.in3 = k.in3 ∧ y.rx0 = k.rx0 ∧ y.rx2 = k.rx2 ∧ y.rx3 = k.rx3 ∧
         y.credit1 = k.credit1 ∧ y.credit2 = k.credit2 ∧ y.credit3 = k.credit3 ∧ y.naks = k.naks ∧ y.state = k.state) ∧
       (k.encRx = false →
         y.rxFlits = k.rxFlits ∧
         (acts ∧ avc ≠ 0 ∧ bit h 41 = false → y.replay = ackReplay avc aseq k.replay ∧ y.state = k.state) ∧
         (acts ∧ avc ≠ 0 ∧ bit h 41 = true → replayLimit avc aseq k = false → y.state = k.state ∧
           y.replay = k.replay.map (fun e => if inReplay avc aseq e then { e with due := true } else e)) ∧
         (acts ∧ avc ≠ 0 ∧ bit h 41 = true → replayLimit avc aseq k = true → y.replay = k.replay ∧
           y.state = if k.state = 2 then 4 else k.state) ∧
         (¬acts ∨ avc = 0 → y.replay = k.replay ∧ y.state = k.state) ∧
         (∀ v, v ∈ [1, 2, 3] → creditOf y v = creditOf k v + (if acts ∧ fld h 22 21 = v then
           (fld h 20 13 + 256 - (if v = 1 then k.seen1 else if v = 2 then k.seen2 else k.seen3)) % 256 else 0)) ∧
         (data 0 → let gap := seq ≠ k.rx0.expect
           let r := took (if gap then (cutItem k).rx0 else k.rx0)
           y.rx0.expect = (seq + 1) % 65536 ∧
           y.v0 = k.v0 ++ (if gap ∧ 0 < k.rx0.left then [.cut] else []) ++ (parse0 40 r.1 r.2).2.1) ∧
         (¬data 0 → y.v0 = k.v0 ∧ y.rx0 = k.rx0) ∧
         (data 2 → seq = k.rx2.expect → y.rx2.expect = (seq + 1) % 65536 ∧
           y.in2 = k.in2 ++ (parsePkts 2 k.rxGroup 40 (took k.rx2).1 (took k.rx2).2).2.1) ∧
         (¬data 2 ∨ seq ≠ k.rx2.expect → y.rx2 = k.rx2 ∧ y.in2 = k.in2) ∧
         (data 3 → seq = k.rx3.expect → 0 < k.grant3 → y.rx3.expect = (seq + 1) % 65536 ∧
           y.in3 = k.in3 ++ (parsePkts 3 k.rxGroup 40 (took k.rx3).1 (took k.rx3).2).2.1) ∧
         (¬data 3 ∨ seq ≠ k.rx3.expect ∨ k.grant3 = 0 → y.rx3 = k.rx3 ∧ y.in3 = k.in3 ∧ y.grant3 = k.grant3) ∧
         y.naks = (if (data 2 ∧ seq ≠ k.rx2.expect ∧ seqBefore seq k.rx2.expect = false) ∨
             (data 3 ∧ seq ≠ k.rx3.expect ∧ seqBefore seq k.rx3.expect = false)
           then setInsert k.naks (fld h 59 58) else k.naks)))) ∧
  (∀ (s : State) (l lost : Nat), let k := getLink s.blk l
    let run := if 4 ≤ lost then 1 else k.uncorrRun + 1
    linkPresent s.blk l = true → sendsFlits k = true →
    ∃ t, exec (.uncorrectableCodeword l lost) s = .next t ∧
      (let y := getLink t.blk l
       y.naks = [1, 2, 3] ∧ y.in2 = k.in2 ∧ y.in3 = k.in3 ∧ y.replay = k.replay ∧
       (k.encRx = false → y.v0 = k.v0 ++ (if 0 < lost % 4 ∧ 0 < k.rx0.left then [.cut] else [])) ∧
       (k.encRx = true → y.v0 = k.v0 ∧ y.rxBad = (k.rxBad || decide (0 < lost % 4)) ∧
         y.rxFlits = (k.rxFlits ++ List.replicate (lost % 4) 0).take 64) ∧
       (run < 4 ∨ k.state ≠ 2 → y.uncorrRun = run ∧ y.state = k.state) ∧
       (4 ≤ run → k.state = 2 → y.state = 4 ∧ y.pause = true ∧ y.step = 2))) ∧
  (∀ (s : State) (l : Nat), let k := getLink s.blk l
    let body := k.rxFlits.take 63
    let sealFlit := k.rxFlits.getD 63 0
    let ks := slotKeys s.blk k.rxSlot
    let iv := groupIv ks.2 k.rxGroup
    let p := toNats (flitPayload sealFlit)
    let good := k.rxBad = false ∧ fld sealFlit.toNat 63 60 = 2 ∧ (p.drop 16).take 8 = toNats (leBytes 8 k.rxGroup) ∧
      p.take 16 = gcmTag ks.1 iv (groupAad (body ++ [sealFlit]) k.rxGroup) (groupText body)
    let g := (k.rxGroup + 1) % 2 ^ 64
    let slot (z : Link) := (((z.rxSwitch.filter (fun x => x.2 == g)).getLast?).map (·.1)).getD z.rxSlot
    linkPresent s.blk l = true → k.encRx = true → 64 ≤ k.rxFlits.length →
    (¬good → ∃ t, exec (.sealReceive l) s = .next t ∧
      (let y := getLink t.blk l
       y.rxFlits = [] ∧ y.rxBad = false ∧ y.rxGroup = g ∧ y.rxSlot = slot k ∧ y.authFail = min 255 (k.authFail + 1) ∧
       y.in2 = k.in2 ∧ y.in3 = k.in3 ∧ y.replay = k.replay ∧ y.naks = [1, 2, 3] ∧
       y.v0 = k.v0 ++ (if 0 < k.rx0.left then [.cut] else []))) ∧
    (good →
      let plain := List.zipWith (fun f x => flitOf (f.toNat % 2 ^ 64) (ofNats x)) body
        (chunks 63 504 (gcmCrypt ks.1 iv 0 (groupText body)))
      let u := rxHeader (plain.foldl (fun b f => rxFlit b l f)
        (putLink s.blk l { k with rxFlits := [], rxBad := false })) l (sealFlit.toNat % 2 ^ 64)
      let z := getLink u l
      exec (.sealReceive l) s = becomes s (putLink u l
        { z with rxGroup := g, rxSlot := slot z, rxSwitch := z.rxSwitch.filter (fun x => x.2 != g) }))) ∧
  (∀ (s : State) (l vc : Nat) (e : ReplayEntry), let k := getLink s.blk l
    linkPresent s.blk l = true → k.state = 2 ∨ k.state = 3 →
    k.replay.find? (fun e => e.vc == vc && !e.acked && !e.due) = some e →
    ∃ t, exec (.replayTimeout l vc) s = .next t ∧
      (replayLimit vc e.seq k = false →
        (getLink t.blk l).replay = k.replay.map (fun x => if inReplay vc e.seq x then { x with due := true } else x) ∧
        (getLink t.blk l).timeouts = min 0xFFFF (k.timeouts + 1) ∧ (getLink t.blk l).replays = min 0xFFFF (k.replays + 1) ∧
        (getLink t.blk l).state = k.state) ∧
      (replayLimit vc e.seq k = true → (getLink t.blk l).replay = k.replay ∧
        (getLink t.blk l).state = if k.state = 2 then 4 else 3)) ∧
  (∀ (s : State) (l : Nat), let k := getLink s.blk l
    let v := k.turn % 3 + 1
    let groupFull := k.encTx = true ∧ 63 ≤ k.txFlits.length
    linkPresent s.blk l = true → sendsFlits k = true →
    ∃ t, exec (.linkFlitSend l) s = .next t ∧
      (let y := getLink t.blk l
       let f := y.txFlit.toNat
       fld f 40 39 = v ∧ fld f 38 23 = expectOf k v % 65536 ∧ bit f 41 = k.naks.contains v ∧ bit f 12 = k.pause ∧
       y.turn = (k.turn + 1) % 3 ∧ y.naks = k.naks.filter (· != v) ∧ fld f 22 21 = v ∧
       fld f 20 13 = (if v = 3 then k.freed3 % 256 else 0) ∧
       (groupFull → fld f 63 60 = 2 ∧ y.txFlits = [] ∧ y.txGroup = (k.txGroup + 1) % 2 ^ 64 ∧ y.replay = k.replay) ∧
       (¬groupFull → y.txGroup = k.txGroup ∧ (k.encTx = true → y.txFlits = k.txFlits ++ [y.txFlit]) ∧
         (pickVc s.blk l k = none → fld f 63 60 = 0 ∧ y.replay = k.replay ∧
           (k.encTx = false → flitPayload y.txFlit = List.replicate 504 0)) ∧
         (∀ vc e rest, pickVc s.blk l k = some vc → sendDue vc k.replay = some (e, rest) →
           fld f 63 58 = 4 + vc ∧ fld f 57 42 = e.seq % 65536 ∧ fld f 11 6 = e.first % 64 ∧ y.replay = rest ∧
           creditOf y vc = creditOf k vc ∧ (takeSeq y vc).1 = (takeSeq k vc).1) ∧
         (∀ vc, pickVc s.blk l k = some vc → sendDue vc k.replay = none →
           let q := sendQueue (if vc = 3 then stampSwitch k else k) vc
           let n := nextPayload q.1 q.2
           fld f 63 58 = 4 + vc ∧ fld f 57 42 = (takeSeq k vc).1 % 65536 ∧ fld f 11 6 = n.2.1 % 64 ∧
           creditOf y vc + 1 = creditOf k vc ∧ (takeSeq y vc).1 = ((takeSeq k vc).1 + 1) % 65536 ∧
           y.replay = k.replay ++ [⟨vc, (takeSeq k vc).1, n.2.1, n.1, 1, false, false⟩] ∧
           sendQueue y vc = (n.2.2.1, n.2.2.2.1))))) ∧
  (∀ (b : Block) (l : Nat) (k : Link), let passed (v : Nat) := Table.get 0 (Table.get [] b.arbiters (0x20000 + l)) v
    (pickVc b l k = none → ∀ v ∈ [1, 2, 3], vcReady k v = false) ∧
    (∀ vc, pickVc b l k = some vc → vc ∈ [1, 2, 3] ∧ vcReady k vc = true ∧
      (k.replay.any (·.due) = false →
        (1023 ≤ passed vc ∨ ∀ v ∈ [1, 2, 3], vcReady k v = true → passed v < 1023 ∧ vcTte b k vc ≤ vcTte b k v))))

/-- For the packet at the head of VC2: a READ_RSP whose tag and generation are outstanding, with the granules asked
for or a refusal without any, frees the tag; the granules go to the active transfer of the stream at their walk
position, or to the image that the boot ROM reads, and a refusal marks the position of a stream (0x117). Any other
READ_RSP is a PROTOCOL discard and frees nothing. A WRITE_REFUSE that finds its write marks the position with the
write's address while the transfer is active, records 0x117 with that address afterwards, and is a PROTOCOL discard
where none is found. A tag past its lifetime is freed and records 0x40A, and marks the position of its stream; a
lifetime of 0 never ends. A mark keeps the failure that lies first. A KEY_SWITCH at the head of VC3 that names a
loaded slot and a group at least 64 after the group that brought it, on an encrypted direction, adds the switch; any
other is a PROTOCOL discard. A packet of VC3 that is taken leaves, and the last of its flit returns the credit. PAUSE
is set with free space of the catch queue below ON or the link in HOLD or RETRAIN, cleared with at least OFF on an UP
link, and else kept. Nothing else changes. (R281, R282, R283, R285, R221, R305, R410, R280, R372, R309) -/
def Obligations.LinkAnswersAndPause : Prop :=
  (∀ (s : State) (l : Nat) (p : RxPkt) (rest : List RxPkt), let k := getLink s.blk l
    let tag := fld p.header 99 88
    let status := fld p.header 87 84
    let drop := putLink s.blk l { k with in2 := rest }
    k.in2 = p :: rest → pktType p.header = 0x22 → s.blk.power.hold = false ∨ streamRead k tag = false →
    (∀ gen owner pos n addr, Table.find k.tags tag = some ⟨gen, some (owner, pos, n, addr)⟩ →
      let b := putLink s.blk l { k with in2 := rest, tags := Table.add k.tags tag ⟨gen, none⟩ }
      let ok := gen = fld p.header 103 100 ∧ status = 0 ∧ pktLen p.header = n
      let refused := gen = fld p.header 103 100 ∧ status = 1 ∧ pktLen p.header = 0
      (∀ sid, owner = some sid → ok → exec (.readRsp l) s = becomes s (updStream b sid (fun x =>
        { x with arrived := if x.active.isSome then x.arrived ++ [⟨pos, markBody (p.header % 2 ^ 32) p.body⟩]
                            else x.arrived }))) ∧
      (∀ sid, owner = some sid → refused → exec (.readRsp l) s = becomes s (noteBad b sid 0x117 pos addr)) ∧
      (owner = none → ok → s.blk.start.phase = .stage 2 ∧ s.blk.start.bootReq = some (pos, n) →
        exec (.readRsp l) s = becomes s { b with start := { s.blk.start with
          image := s.blk.start.image.take pos ++ p.body, bootReq := none } }) ∧
      (owner = none → refused ∨ (ok ∧ ¬(s.blk.start.phase = .stage 2 ∧ s.blk.start.bootReq = some (pos, n))) →
        exec (.readRsp l) s = becomes s b) ∧
      (¬ok → ¬refused → exec (.readRsp l) s = becomes s (protocol drop l))) ∧
    ((Table.find k.tags tag).all (fun t => t.req.isNone) = true →
      exec (.readRsp l) s = becomes s (protocol drop l))) ∧
  (∀ (s : State) (l tag gen pos n addr : Nat) (owner : Option Nat), let k := getLink s.blk l
    let b := report (putLink s.blk l { k with tags := Table.add k.tags tag ⟨gen, none⟩ }) (0x4000 + l) 0x40A 0
    Table.find k.tags tag = some ⟨gen, some (owner, pos, n, addr)⟩ →
    (k.tagTimeout = 0 → exec (.tagTimeout l tag) s = .next s) ∧
    (k.tagTimeout ≠ 0 → exec (.tagTimeout l tag) s = becomes s (match owner with
      | some sid => noteBad b sid 0x117 pos addr
      | none => b))) ∧
  (∀ (s : State) (l : Nat) (p : RxPkt) (rest : List RxPkt), let k := getLink s.blk l
    let b := putLink s.blk l { k with in2 := rest }
    k.in2 = p :: rest → pktType p.header = 0x23 → s.blk.power.hold = false →
    (∀ w, k.writes.find? (fun w => w.wid == fld p.header 103 88) = some w →
      (w.live = true → exec (.writeRefuse l) s = becomes s (noteBad b w.sid 0x117 w.pos w.addr)) ∧
      (w.live = false → exec (.writeRefuse l) s =
        becomes s (report b (0x1000 + w.sid) 0x117 (BitVec.ofNat 128 (w.addr * 2 ^ 64))))) ∧
    ((∀ w ∈ k.writes, w.wid ≠ fld p.header 103 88) → exec (.writeRefuse l) s = becomes s (protocol b l))) ∧
  (∀ (b : Block) (sid code pos addr : Nat), getStream (noteBad b sid code pos addr) sid = { getStream b sid with
    bad := match (getStream b sid).bad with
      | some (c, q, a) => if q ≤ pos then some (c, q, a) else some (code, pos, addr)
      | none => some (code, pos, addr) }) ∧
  (∀ (s : State) (l : Nat) (p : RxPkt) (rest : List RxPkt), let k := getLink s.blk l
    let slot := fld p.header 103 100
    let g := fld p.header 99 36
    let k' := popControl k
    k.in3 = p :: rest → pktType p.header = 0x41 →
    exec (.keySwitch l) s = becomes s
      (if k.encRx && decide (p.group + 64 ≤ g) && (Table.find s.blk.sec.slots slot).isSome then
        putLink (putLink s.blk l k') l { k' with rxSwitch := k'.rxSwitch ++ [(slot, g)] }
      else protocol (putLink s.blk l k') l) ∧
    k'.in3 = rest ∧ k'.rxSwitch = k.rxSwitch ∧
    (∀ n r, k.buf3 = n :: r → 1 < n → k'.grant3 = k.grant3 ∧ k'.freed3 = k.freed3 % 256 ∧ k'.buf3 = (n - 1) :: r) ∧
    (∀ r, k.buf3 = 1 :: r → r.head? ≠ some 0 →
      k'.grant3 = k.grant3 + 1 ∧ k'.freed3 = (k.freed3 + 1) % 256 ∧ k'.buf3 = r)) ∧
  (∀ (s : State) (l : Nat), let k := getLink s.blk l
    let free := 65536 - k.catchQ.length
    linkPresent s.blk l = true →
    exec (.pause l) s = becomes s (putLink s.blk l { k with
      pause := if free < k.cqOn ∨ 3 ≤ k.state then true
        else if k.cqOff ≤ free ∧ k.state = 2 then false
        else k.pause }))

/-- LNK.CMD.TRAIN on a DOWN link begins training: step 1, SEQ, credits and groups afresh; on another link it does
nothing. A step past its maximum goes back to step 2. Step 1 asserts the PHY reset and ends once MIN_LANES lanes are
usable. In training and retrain alike: step 2 sends TS1 and ends once enough proposed lanes are locked; step 3 sends
TS2 and, with the partner's MAP, gives the lanes of both their states, the record changing with them on an up link, or
goes back to step 2; step 4 ends once every active lane has 16 words; step 5 ends UP, in HOLD under Hold or for a
further lane, after 5,140 intact flits. A valid word on an enabled ready lane counts in steps 2 and 4, and in step 3
brings MAP and, from DOWN, the credits, or ends the step where encryption disagrees. TRAIN_FAIL takes a TRAINING link
DOWN. A fall of PHY_RDY of an active lane, a long silence and LNK.CMD.RETRAIN start a retrain of an UP link, counted
against a lane, which qualifies at the limit. A retrain that fails names its lane, the worst one when a lane was being
retired, or takes the link DOWN when fewer than MIN_LANES would stay; linkDown does so for a retirement.
LNK.CMD.RETIRE of an active or spare lane qualifies it; an UP link enters HOLD for its first qualified lane; HOLD ends
in RETRAIN; the partner's LANE_RETIRE leaves VC3 and qualifies its lane. The error window counts its lanes and
restarts; one over the limit for long enough qualifies. CLR_COUNTS clears the counters. (R297, R298, R299, R300, R301,
R302, R303, R307, R58, R270) -/
def Obligations.TrainingAndLanes : Prop :=
  (∀ (s : State) (l : Nat), let k := getLink s.blk l
    linkPresent s.blk l = true →
    (k.state = 0 → s.blk.start.phase ≠ .reset → ∃ t, exec (.lnkCmdTrain l) s = .next t ∧
      (let y := getLink t.blk l
       y.state = 1 ∧ y.step = 1 ∧ y.stepAt = s.blk.start.portCycle ∧ y.phyRst = false ∧ y.seq1 = 0 ∧ y.seq2 = 0 ∧
       y.seq3 = 0 ∧ y.rx0.expect = 0 ∧ y.rx2.expect = 0 ∧ y.rx3.expect = 0 ∧ y.credit1 = 0 ∧ y.credit2 = 0 ∧
       y.credit3 = 0 ∧ y.grant3 = 16 ∧ y.txGroup = 0 ∧ y.rxGroup = 0 ∧ y.replay = [] ∧ y.retiring = none)) ∧
    (k.state ≠ 0 → exec (.lnkCmdTrain l) s = .next s) ∧
    (k.state = 1 → stepLate s.blk k = true →
      exec (.linkTraining l) s = becomes s (putLink s.blk l { backToTwo s.blk k with phyRst := true })) ∧
    (k.state = 1 → k.step = 1 → stepLate s.blk k = false → exec (.linkTraining l) s =
      if k.phyRst = false then becomes s (putLink s.blk l { k with phyRst := true })
      else if max 1 (min 16 k.minLanes) ≤ (usableLanes s.blk k).length then
        becomes s (putLink s.blk l { k with step := 2, stepAt := s.blk.start.portCycle })
      else .next s) ∧
    (∀ lane (w : BitVec 256), let x := getLane k lane
      let ok := laneEn s.blk l lane = true ∧ (k.state = 1 ∨ k.state = 4) ∧ wordOk lane w.toNat = true ∧ x.rdy = true
      let ts2 := fld w.toNat 191 184 = 2
      let counted := becomes s (putLink s.blk l (setLane k lane { x with words := x.words + 1 }))
      (ok → k.step = 2 ∨ (k.step = 4 ∧ ts2) → exec (.trainingWord l lane w) s = counted) ∧
      (ok → k.step = 3 → ts2 → cryptAgrees s.blk k w.toNat = false →
        exec (.trainingWord l lane w) s = becomes s (putLink s.blk l (backToTwo s.blk k))) ∧
      (ok → k.step = 3 → ts2 → cryptAgrees s.blk k w.toNat = true →
        exec (.trainingWord l lane w) s = becomes s (putLink s.blk l { setLane k lane { x with map := fld w.toNat 178 162 } with
          partnerMap := fld w.toNat 178 162
          credit1 := if k.state = 4 then k.credit1 else fld w.toNat 161 150
          credit2 := if k.state = 4 then k.credit2 else fld w.toNat 149 138
          credit3 := if k.state = 4 then k.credit3 else fld w.toNat 137 130 })) ∧
      (¬ok ∨ (k.step ≠ 2 ∧ ¬((k.step = 3 ∨ k.step = 4) ∧ ts2)) → exec (.trainingWord l lane w) s = .next s)) ∧
    (k.state = 1 → ∃ t, exec (.trainFail l) s = .next t ∧ (getLink t.blk l).state = 0 ∧ linkUp t.blk l = false) ∧
    (k.state ≠ 1 → exec (.trainFail l) s = .next s)) ∧
  (∀ (s : State) (l : Nat) (c : Instr), let k := getLink s.blk l
    let w (n : Nat) : Link := { k with txd := (usableLanes s.blk k).map (fun i => (i, [ownWord s.blk k n i])) }
    let own := ourMap s.blk k
    let locked := own.filter (fun i => decide (0 < (getLane k i).words))
    let both := own.filter (fun i => bit k.partnerMap i)
    let min' := max 1 (min 16 k.minLanes)
    linkPresent s.blk l = true →
    (c = .linkTraining l ∧ k.state = 1 ∧ stepLate s.blk k = false) ∨ (c = .laneRetrain l k.blame ∧ k.state = 4) →
    (k.step = 2 → exec c s = becomes s (putLink s.blk l
      (if min' ≤ locked.length ∧ (k.state = 4 → locked.length = own.length) then
        { w 1 with step := 3, stepAt := s.blk.start.portCycle, partnerMap := 0 } else w 1))) ∧
    (k.step = 3 → k.partnerMap = 0 → exec c s = becomes s (putLink s.blk l (w 2))) ∧
    (k.step = 3 → k.partnerMap ≠ 0 → both.length < min' →
      exec c s = becomes s (putLink s.blk l (backToTwo s.blk (w 2)))) ∧
    (k.step = 3 → k.partnerMap ≠ 0 → min' ≤ both.length → ∃ t, exec c s = .next t ∧
      (let y := getLink t.blk l
       y.step = 4 ∧ y.state = k.state ∧ y.encTx = k.txEn ∧ y.encRx = k.rxEn ∧ y.replay = k.replay ∧
       (∀ i, i < 17 → (getLane y i).words = 0 ∧ (getLane y i).state =
         if i ∈ both.take 16 then 0 else if i ∈ both then 1
         else if (getLane k i).state = 2 ∨ k.retiring = some i then 2 else 3) ∧
       t.blk.host.updateSeq = s.blk.host.updateSeq +
         (if k.state = 4 ∧ lanesState y ≠ lanesState k then 1 else 0))) ∧
    (k.step = 4 → ∃ t, exec c s = .next t ∧
      (let y := getLink t.blk l
       let ready := ∀ i, i < 17 → (getLane k i).state = 0 → 16 ≤ (getLane k i).words
       (ready → y.step = 5 ∧ y.clean = 0 ∧ y.txWords = 0 ∧ (k.state = 1 → y.txGroup = 0 ∧ y.rxGroup = 0)) ∧
       (¬ready → y = w 2))) ∧
    (k.step = 5 → k.clean < 5140 → exec c s = .next s) ∧
    (k.step = 5 → 5140 ≤ k.clean → ∃ t, exec c s = .next t ∧
      (let y := getLink t.blk l
       let waits := ∃ i, i < 17 ∧ (getLane k i).qualified ≠ 0 ∧ (getLane k i).state < 2
       (s.blk.power.hold = false → ¬waits → y.state = 2 ∧ y.retiring = none) ∧
       (s.blk.power.hold = true → y.state = 3 ∧ y.retiring = none) ∧
       (s.blk.power.hold = false → waits → y.state = 3 ∧ ∃ i, y.retiring = some i ∧ i < 17 ∧
         (getLane k i).qualified ≠ 0 ∧ (getLane k i).state < 2) ∧
       linkUp t.blk l = true ∧
       y.replay = k.replay.map (fun e => if e.acked then e else { e with due := true }) ∧
       (k.state = 1 → k.retiring = none → t.blk.host.updateSeq = s.blk.host.updateSeq + 1)))) ∧
  (∀ (s : State) (l lane : Nat) (c : Instr), let k := getLink s.blk l
    let x := getLane k lane
    linkPresent s.blk l = true →
    ((c = .noIntactFlit l ∨ c = .lnkCmdRetrain l) → k.state ≠ 2 → exec c s = .next s) ∧
    (c = .phyRdyFall l lane → lane < 17 → x.rdy = true → k.state ≠ 2 ∨ x.state ≠ 0 →
      exec c s = becomes s (putLink s.blk l (setLane k lane { x with rdy := false }))) ∧
    (k.state = 2 → (c = .phyRdyFall l lane ∧ lane < 17 ∧ x.rdy = true ∧ x.state = 0) ∨
        ((c = .noIntactFlit l ∨ c = .lnkCmdRetrain l) ∧ lane = worstLane k) →
      ∃ t, exec c s = .next t ∧
        (let y := getLink t.blk l
         let recent := (x.recent.filter (fun m => decide (s.blk.start.portCycle < m + s.blk.start.portRun * 1000000))).length
         y.state = 4 ∧ y.step = 2 ∧ y.pause = true ∧ y.blame = lane ∧ linkUp t.blk l = true ∧ y.replay = k.replay ∧
         (getLane y lane).retrains = min 255 (x.retrains + 1) ∧
         (∀ i, i < 17 → (getLane y i).state = (getLane k i).state) ∧
         (max 1 k.retrainLimit ≤ recent + 1 → k.auto = true → x.state < 2 → (getLane y lane).qualified = max 1 x.qualified)))) ∧
  (∀ (s : State) (l lane : Nat), let k := getLink s.blk l
    let x := getLane k lane
    let first (q : Nat → Prop) (i : Nat) : Prop := i < 17 ∧ (getLane k i).state < 2 ∧ q i ∧ ∀ j, j < i → (getLane k j).state < 2 → ¬q j
    linkPresent s.blk l = true → lane < 17 →
    exec (.phyRdyRise l lane) s = becomes s (putLink s.blk l (setLane k lane { x with rdy := true })) ∧
    (k.state = 4 → let worst := worstLane (match k.retiring with
        | some i => setLane k i { getLane k i with state := 2, qualified := 0 }
        | none => k)
      let k' := match k.retiring with
        | some i => setLane k i { getLane k i with state := 2, qualified := 0 }
        | none => k
      let next := if k.retiring.isSome then worst else k.blame
      (max 1 (min 16 k.minLanes) ≤ (lanesWithout s.blk k' next).length →
        ∃ t, exec (.retrainFail l) s = .next t ∧ (getLink t.blk l).state = 4 ∧ (getLink t.blk l).step = 2 ∧
          (getLink t.blk l).retiring = some next ∧ (getLink t.blk l).blame = next) ∧
      ((lanesWithout s.blk k' next).length < max 1 (min 16 k.minLanes) →
        ∃ t, exec (.retrainFail l) s = .next t ∧ (getLink t.blk l).state = 0)) ∧
    (k.state ≠ 4 → exec (.retrainFail l) s = .next s) ∧
    (k.retiring = some lane → (lanesWithout s.blk k lane).length < max 1 (min 16 k.minLanes) →
      ∃ t, exec (.linkDown l) s = .next t ∧
        (let y := getLink t.blk l
         y.state = 0 ∧ y.replay = [] ∧ y.tx1 = [] ∧ y.tx2 = [] ∧ y.tx3 = [] ∧ y.in2 = [] ∧ y.in3 = [] ∧
         y.encTx = false ∧ y.encRx = false ∧ linkUp t.blk l = false ∧
         (2 ≤ k.state → t.blk.host.updateSeq = s.blk.host.updateSeq + 1))) ∧
    (2 ≤ k.state → x.state < 2 →
      ∃ t, exec (.lnkCmdRetire l lane) s = .next t ∧
        (getLane (getLink t.blk l) lane).qualified = max 1 x.qualified ∧
        (k.state ≠ 2 → (getLink t.blk l).state = k.state ∧ (getLink t.blk l).retiring = k.retiring) ∧
        (∀ i, k.state = 2 → first (fun j => j = lane ∨ (getLane k j).qualified ≠ 0) i →
          (getLink t.blk l).state = 3 ∧ (getLink t.blk l).retiring = some i ∧ (getLink t.blk l).pause = true ∧
          linkUp t.blk l = true ∧
          (i = lane → x.qualified = 0 → (getLink t.blk l).tx3 = k.tx3 ++ [retirePkt lane]))) ∧
    (k.state < 2 ∨ 2 ≤ x.state → exec (.lnkCmdRetire l lane) s = .next s) ∧
    (let partner := k.in3.head?.any (fun p => pktType p.header == 0x40 && fld p.header 103 99 == lane)
     (partner = false → k.state = 3 → k.retiring = some lane → k.tx3.contains (retirePkt lane) = false →
       max 1 (min 16 k.minLanes) ≤ (lanesWithout s.blk k lane).length →
       exec (.laneRetire l lane) s = becomes s (putLink s.blk l
         { backToTwo s.blk k with state := 4, blame := lane, pause := true })) ∧
     (partner = true → ∃ t, exec (.laneRetire l lane) s = .next t ∧ (getLink t.blk l).in3 = k.in3.drop 1 ∧
       (k.auto = true → x.state < 2 → (getLane (getLink t.blk l) lane).qualified = max 2 x.qualified ∧
         (k.state = 2 → (getLink t.blk l).state = 3 ∧ ∃ i, (getLink t.blk l).retiring = some i)))) ∧
    (∃ t, exec (.serWindow l) s = .next t ∧
      (let y := getLane (getLink t.blk l) lane
       let high := if x.state = 0 ∧ k.serLimit < x.window then min 255 (x.high + 1) else 0
       y.window = 0 ∧ y.high = high ∧ y.corr = x.corr ∧
       (x.state = 0 → max 1 k.serWindows ≤ high → k.auto = true → y.qualified = max 1 x.qualified ∧
         (k.state = 2 → (getLink t.blk l).state = 3)))) ∧
    (∃ t, exec (.lnkCmdClrCounts l) s = .next t ∧
      (let y := getLink t.blk l
       y.cqCorr = 0 ∧ y.cqDamaged = 0 ∧ y.cqLost = 0 ∧ y.replays = 0 ∧ y.timeouts = 0 ∧ y.authFail = 0 ∧
       (getLane y lane).corr = 0 ∧ (getLane y lane).high = 0 ∧ (getLane y lane).retrains = x.retrains ∧
       y.state = k.state ∧ y.replay = k.replay ∧ y.catchQ = k.catchQ)))

/-- The controller writes the next VC0 word at the queue's end, with its END; at a full queue one older word gives
way, CQ LOST rises by 1, and the queue never passes 65,536 words; a word of a packet being dropped is discarded up to
its END. A cut ends the packet in progress. Reading an empty queue presents the Lull item. Without a segment: a body
word that leads is discarded; a PASS_END or a packet too short to begin stays; a SEG header leaves the queue,
corrected, and begins its segment: for a range that is FREE or of another STORE it is ignored and UNKNOWN rises; for a
COMPLETE range or a segment whose bit is set it is ignored and DUPS rises; in an ARMED range a SEGNO not below COUNT
stops it, damaged. Inside a segment the next body word leaves the queue: it joins the body and, under EXPAND, the
expander's input; else its bytes go to their place in Lee. A header there, or an END that was lost, ends the segment,
damaged; without room the word waits; barred by the seam the job ends. DROP_PACKET of an ignored or stopped segment
discards the words up to END, also those that still arrive. CLR_STAT clears DUPS and UNKNOWN and nothing else. (R287,
R288, R289, R292, R294, R308, R18, R21, R296) -/
def Obligations.CatchQueueKeepsPackets : Prop :=
  (∀ (s : State) (l : Nat), let k := getLink s.blk l
    linkPresent s.blk l = true → k.catchQ.length ≤ 65536 →
    ∃ t, exec (.catchQueueWrite l) s = .next t ∧
      (let y := getLink t.blk l
       y.catchQ.length ≤ 65536 ∧ (k.v0 = [] → y = k) ∧
       (∀ w last r, k.v0 = .head w last :: r → k.catchQ.length < 65536 → y.v0 = r ∧ y.cqLost = k.cqLost ∧
         y.catchQ = k.catchQ ++ [⟨w, false, 0, true, last, false⟩] ∧ y.cqOpen = !last) ∧
       (∀ w last r, k.v0 = .body w last :: r → k.catchQ.length < 65536 → k.dropping = false → y.v0 = r ∧
         y.cqLost = k.cqLost ∧ y.catchQ = k.catchQ ++ [⟨w, false, 0, false, last, false⟩] ∧ y.cqOpen = !last) ∧
       (∀ w last r, k.v0 = .body w last :: r → k.dropping = true → y.v0 = r ∧ y.catchQ = k.catchQ ∧
         y.cqLost = k.cqLost ∧ y.dropping = !last) ∧
       (∀ w last r, k.v0 = .head w last :: r ∨ (k.v0 = .body w last :: r ∧ k.dropping = false) →
         k.catchQ.length = 65536 → y.v0 = r ∧ y.cqLost = min 0xFFFFFFFF (k.cqLost + 1) ∧ y.catchQ.length = 65536) ∧
       (∀ r, k.v0 = .cut :: r → y.v0 = r ∧ y.catchQ.length = k.catchQ.length ∧ y.dropping = false ∧
         (k.dropping = false → y.cqOpen = false)))) ∧
  (∀ (s : State) (l : Nat) (run : CodRun), let k := getLink s.blk l
    linkPresent s.blk l = true → (getCodec s.blk l).run = some run → run.job.ingress = true → run.ending = none →
    s.blk.power.hold = false →
    let lull := becomes s (putLink s.blk l (presentLull k))
    (run.seg = none → k.catchQ = [] → exec (.catchQueueRead l) s = lull) ∧
    (∀ sg, run.seg = some sg → sg.whole = false → sg.stopped = false → sg.ignored = false → k.cqIn = true →
      (codecBarred s.blk l = true → exec (.catchQueueRead l) s = becomes s (codecLost s.blk l)) ∧
      (codecBarred s.blk l = false → k.catchQ = [] →
        exec (.catchQueueRead l) s = if k.cqEnd then becomes s (segCut s.blk l) else lull)) ∧
    (∀ w r, k.catchQ = w :: r → run.seg = none →
      (w.head = false → exec (.catchQueueRead l) s =
        becomes s (putLink s.blk l { k with catchQ := r, cqMark := false, cqEnd := false })) ∧
      (w.head = true → pktType w.data.toNat = 0x11 ∨ mayBegin k = false → exec (.catchQueueRead l) s = .next s) ∧
      (w.head = true → pktType w.data.toNat ≠ 0x11 → mayBegin k = true →
        let d := cqDecode k w
        let h := d.1.toNat
        let x := getRange s.blk (fld h 103 96)
        let n := fld h 83 68
        let known := x.state ≠ 0 ∧ x.store = fld h 95 84
        let dup := x.state = 2 ∨ (x.state = 1 ∧ n < x.count ∧ (segBit s.blk x n).1 = true)
        ∃ t run' sg, exec (.catchQueueRead l) s = .next t ∧ (getCodec t.blk l).run = some run' ∧ run'.seg = some sg ∧
          (getLink t.blk l).catchQ = r ∧ (getLink t.blk l).cqIn = (!w.last) ∧ (getLink t.blk l).cqCorr = d.2.2.cqCorr ∧
          sg.range = fld h 103 96 ∧ sg.segno = n ∧ sg.len = pktLen h ∧ sg.whole = w.last ∧ sg.body = [] ∧
          (¬known → sg.ignored = true ∧ t.blk.unknown = min 0xFFFF (s.blk.unknown + 1) ∧ t.blk.dups = s.blk.dups) ∧
          (known → dup →
            sg.ignored = true ∧ t.blk.dups = min 0xFFFF (s.blk.dups + 1) ∧ t.blk.unknown = s.blk.unknown) ∧
          (known → ¬dup → sg.ignored = false ∧ sg.stopped = decide (x.count ≤ n) ∧
            sg.damaged = (decide (x.count ≤ n) || w.damaged || d.2.1) ∧
            t.blk.dups = s.blk.dups ∧ t.blk.unknown = s.blk.unknown))) ∧
    (∀ sg w r, let x := getRange s.blk sg.range
      let d := cqDecode k w
      run.seg = some sg → sg.whole = false → sg.stopped = false → sg.ignored = false → k.cqIn = true →
      codecBarred s.blk l = false → k.catchQ = w :: r →
      (w.head = true → exec (.catchQueueRead l) s = becomes s (segCut s.blk l)) ∧
      (w.head = false → x.expand = false → epRoom s.blk x.dst = false → exec (.catchQueueRead l) s = .next s) ∧
      (w.head = false → x.expand = true ∨ (epRoom s.blk x.dst = true ∧ sg.out + 16 ≤ x.segBytes) →
        ∃ t run' sg', exec (.catchQueueRead l) s = .next t ∧ (getCodec t.blk l).run = some run' ∧ run'.seg = some sg' ∧
          (getLink t.blk l).catchQ = r ∧ (getLink t.blk l).cqIn = (!w.last) ∧
          sg'.body = sg.body ++ granuleBytes d.1 ∧ sg'.whole = w.last ∧
          (w.damaged || k.cqMark || (d.2.1 && !x.expand) → sg'.damaged = true) ∧
          (x.expand = true → run'.inbuf = run.inbuf ++ markAll d.2.1 (granuleBytes d.1)) ∧
          (x.expand = false → sg'.out = sg.out + 16 ∧
            (epKind x.dst = 0 → pathsClean s.blk → s.blk.lee.err = [] → ∀ i, i < 16 →
              byteAt t.blk (epAddr s.blk x.dst + (sg.segno * x.segBytes + sg.out) + i) = (granuleBytes d.1).getD i 0))))) ∧
  (∀ (s : State) (l : Nat) (run : CodRun) (sg : Seg),
    (getCodec s.blk l).run = some run → run.seg = some sg →
    (sg.ignored = true →
      exec (.dropPacket l) s = becomes s (updRun (updLink s.blk l cqDrop) l (fun r => { r with seg := none }))) ∧
    (sg.ignored = false → sg.stopped = true → exec (.dropPacket l) s =
      becomes s (updRun (updLink s.blk l cqDrop) l (fun r => { r with seg := some { sg with whole := true } })))) ∧
  (∀ (k : Link) (pre : List CqWord), k.cqIn = true → (∀ w ∈ pre, w.head = false ∧ w.last = false) →
    (k.catchQ = pre → (cqDrop k).catchQ = [] ∧ (cqDrop k).dropping = k.cqOpen) ∧
    (∀ w r, k.catchQ = pre ++ w :: r → w.head = true ∨ w.last = true →
      (cqDrop k).catchQ = (if w.head then w :: r else r) ∧ (cqDrop k).cqIn = false ∧ (cqDrop k).dropping = k.dropping)) ∧
  (∀ s : State, exec .wsCtrlClrStat s = becomes s { s.blk with dups := 0, unknown := 0 })

/-- For a range command that Windsock has taken: range_arm with an address that it may not name ends with 0x838, of a
range that is not FREE with 0x40B, with a descriptor that is poisoned or breaks the table with 0x40C; otherwise the
range takes the descriptor's fields, is ARMED with nothing landed, its bitmap reads 0, and the command ends with
status 0. range_free makes the range FREE. A whole segment that counts as landed, in an ARMED range, sets its bit,
raises LANDED by 1, and makes the range COMPLETE at COUNT, then signalling its Gate; any other whole segment changes
no range, counts as DAMAGED and records 0x407; either way the job is free for the next packet. Barred by the seam the
job ends. A PASS_END leaves the queue; for an ARMED range of its STORE with REFETCH 0b01 or 0b10 the block asks for
every maximal run of segments not landed, and else for nothing. (R290, R291, R293, R295, R296, R306, R432, R21) -/
def Obligations.RangesLandSegments : Prop :=
  (∀ (s : State) (src : Nat) (e : BitVec 512), commandIn s.blk src 0x12 e → leeEp s.blk false (cmdArg e 1) 64 = none →
    exec (.rangeArm src) s = answered s s.blk src 0x838) ∧
  (∀ (s : State) (src : Nat) (e : BitVec 512) (rg : Region) (a : Nat), commandIn s.blk src 0x12 e →
    leeEp s.blk false (cmdArg e 1) 64 = some (rg, a) →
    let r := fld (cmdArg e 0) 7 0
    let d := leeBytesAt s.blk a 64
    let v := leNat (d.1.map (·.1))
    let x := rangeOf v
    ((getRange s.blk r).state ≠ 0 → exec (.rangeArm src) s = answered s s.blk src 0x40B) ∧
    ((getRange s.blk r).state = 0 → (d.1.any (·.2) = true ∨ rangeOk d.2 v x = false) →
      exec (.rangeArm src) s = answered s d.2 src 0x40C) ∧
    ((getRange s.blk r).state = 0 → d.1.any (·.2) = false → rangeOk d.2 v x = true → s.blk.lee.err = [] →
      ∃ t, exec (.rangeArm src) s = .next t ∧ getRange t.blk r = x ∧ x.state = 1 ∧ x.landed = 0 ∧
        Table.find t.blk.host.running src = none ∧
        (∀ k, k < x.count → (segBit t.blk x k).1 = false) ∧
        (∀ j, (j < epAddr s.blk x.bitmap ∨ epAddr s.blk x.bitmap + (x.count + 127) / 128 * 16 ≤ j) →
          byteAt t.blk j = byteAt s.blk j))) ∧
  (∀ (s : State) (src : Nat) (e : BitVec 512), commandIn s.blk src 0x13 e →
    ∃ t, exec (.rangeFree src) s = .next t ∧ (getRange t.blk (fld (cmdArg e 0) 7 0)).state = 0 ∧
      (∀ r, r ≠ fld (cmdArg e 0) 7 0 → getRange t.blk r = getRange s.blk r) ∧
      Table.find t.blk.host.running src = none) ∧
  (∀ (s : State) (l : Nat) (run : CodRun) (sg : Seg), let x := getRange s.blk sg.range
    (getCodec s.blk l).run = some run → run.seg = some sg → segDone s.blk run sg = true → s.blk.power.hold = false →
    let lands := segLanded x sg = true ∧ x.state = 1
    let full := x.landed + 1 = x.count
    (codecBarred s.blk l = true → exec (.segLand l) s = becomes s (codecLost s.blk l)) ∧
    (codecBarred s.blk l = false →
      ∃ t, exec (.segLand l) s = .next t ∧ (getCodec t.blk l).run = some { run with seg := none } ∧
        (lands →
          (s.blk.lee.err = [] → (segBit t.blk x sg.segno).1 = true ∧
            ∀ k, k ≠ sg.segno → (segBit t.blk x k).1 = (segBit s.blk x k).1) ∧
          (getRange t.blk sg.range).landed = x.landed + 1 ∧
          (getRange t.blk sg.range).state = (if full then 2 else 1) ∧
          t.blk.gates = (if full ∧ bit x.gate 15 = true then
            (unitSignal s.blk (0x4000 + l) (fld x.gate 12 0) x.gcount).gates else s.blk.gates)) ∧
        (¬lands →
          t.blk.ranges = s.blk.ranges ∧ t.blk.lee = s.blk.lee ∧ t.blk.gates = s.blk.gates ∧
          (getLink t.blk l).cqDamaged = min 0xFFFF ((getLink s.blk l).cqDamaged + 1)))) ∧
  (∀ (s : State) (l : Nat) (run : CodRun) (w : CqWord) (r : List CqWord), let k := getLink s.blk l
    let d := cqDecode k w
    let x := getRange s.blk (fld d.1.toNat 103 96)
    let asks := x.state = 1 ∧ x.store = fld d.1.toNat 95 84 ∧ (x.refetch = 1 ∨ x.refetch = 2)
    let b := putLink s.blk l { d.2.2 with
      catchQ := r, cqIn := false, cqOut := ⟨d.1, d.2.1, w.head, w.last, w.damaged || d.2.1, false⟩ }
    linkPresent s.blk l = true → (getCodec s.blk l).run = some run → run.job.ingress = true → run.ending = none →
    run.seg = none → k.catchQ = w :: r → w.head = true → pktType w.data.toNat = 0x11 →
    s.blk.power.hold = false →
    (¬asks → exec (.passEnd l) s = becomes s b) ∧
    (asks → let m := bitmapBytes b x 0 ((x.count + 7) / 8)
      exec (.passEnd l) s = becomes s ((clearRuns m.1 x.count 0 none).foldl
        (fun b p => sendRefetch b (fld d.1.toNat 103 96) x p.1 p.2) m.2))) ∧
  (∀ bits n, (∀ p ∈ clearRuns bits n 0 none, 1 ≤ p.2 ∧ p.1 + p.2 ≤ n ∧
      (p.1 + p.2 < n → bit bits (p.1 + p.2) = true) ∧ (0 < p.1 → bit bits (p.1 - 1) = true)) ∧
    ∀ j, j < n → (bit bits j = false ↔ ∃ p ∈ clearRuns bits n 0 none, p.1 ≤ j ∧ j < p.1 + p.2))

/-- For every state in which each link has its SEQ numbers and expected numbers below 65,536, at most 65,536 words in
its catch queue, at most 4,096 flits in its replay buffer and at most 64 flits of a group held, each port has four
classes with at most 32 send credits and at most 32 receive entries each and at most 16 flits in its baffle, and at
most 4,096 event records are unread: the state after any step, with whatever command at the front of the queue, is
again such a state. No overrun of any of these buffers is reachable. (R277, R279, R287, R304, R315, R317, R318, R319,
R353) -/
def Obligations.BuffersStayBounded : Prop :=
  ∀ s t : State, buffersBounded s.blk → step s = .next t → buffersBounded t.blk

/-- A flit on a port that is not UP changes nothing. On an UP port: past 32 entries of its class it resets the port
(0x503); a head flit without a usable copy resets it (0x502); a head flit with a usable copy sets the framing to the
body flits of its LEN, a body flit lowers it by 1, and both take the next entry; corrections count. The oldest held
flit of a class other than stash, and a stash flit that R323 discards, passes into a baffle of fewer than 16 flits and
returns its credit; another stash flit stays for its job. A head flit read from the baffle that R323 discards counts
in PROTO and leaves no operation; a kept GSIG leaves one, a kept message without a body its contribution end, if it
has one, and any other begins. A body flit of a kept message leaves its granules at consecutive offsets, or boot
words, and with its last granule the contribution end; one of a discarded message leaves nothing. A GSIG with nothing
before it outstanding signals a Gate that the running job holds, stops the job where the seam bars it, and else is
discarded with 0x505; before that it waits. Boot words go into the image at their offset. A stash Furl job takes the
next head flit of its Region and the next body flit in sequence into its input, and ends with 0x60D on one out of
sequence; barred by the seam it ends. (R315, R316, R317, R318, R319, R323, R324, R325, R326, R328, R246, R21) -/
def Obligations.FabricReceivesMessages : Prop :=
  (∀ (s : State) (f c : Nat) (flit : BitVec 2304), let p := getPort s.blk f
    let g := flitGrans flit
    let marked : List (Granule × Bool) := g.map (fun x => (x.1, x.2 == .poisoned || x.2 == .uncorrectable))
    let left := p.frame.getD c 0
    (p.state ≠ 1 → exec (.fabricFlitReceive f c flit) s = .next s) ∧
    (f < 64 → c < 4 → p.state = 1 → 32 ≤ p.held.countP (fun x => x.cls == c) →
      exec (.fabricFlitReceive f c flit) s = becomes s (resetPort (report s.blk (0x5000 + f) 0x503 0) f)) ∧
    (f < 64 → c < 4 → p.state = 1 → p.held.countP (fun x => x.cls == c) < 32 →
      ∃ t, exec (.fabricFlitReceive f c flit) s = .next t ∧
        (let y := getPort t.blk f
         y.flitsRx = p.flitsRx + 1 ∧ y.corr = min 0xFFFF (p.corr + g.countP (fun x => x.2 == .corrected)) ∧
         (0 < left → y.state = 1 ∧ y.frame = setAt p.frame c (left - 1) ∧ y.ops = p.ops ∧
           y.held = p.held ++ [⟨p.rxSeq + 1, c, false, marked⟩]) ∧
         (∀ h, left = 0 → [g.headD (0, .uncorrectable), g.getD 1 (0, .uncorrectable)].find? copyOk = some h →
           y.state = 1 ∧ y.frame = setAt p.frame c ((mhLen h.1.toNat + 15) / 16) ∧ y.ops = p.ops ∧
           y.held = p.held ++ [⟨p.rxSeq + 1, c, true, (h.1, false) :: marked.drop 1⟩]) ∧
         (left = 0 → copyOk (g.headD (0, .uncorrectable)) = false → copyOk (g.getD 1 (0, .uncorrectable)) = false →
           y.state = 2 ∧ y.up = false ∧ y.resets = min 255 (p.resets + 1) ∧ y.held = [])))) ∧
  (∀ (s : State) (f c : Nat) (x : RxFlit) (pre post : List RxFlit), let p := getPort s.blk f
    p.held = pre ++ x :: post → x.cls = c → (∀ y ∈ pre, y.cls ≠ c) →
    (p.baffle.length < 16 → c ≠ 1 ∨ stashDiscarded s.blk f p x = true →
      exec (.fabricCreditFree f c) s = becomes s (putPort s.blk f { p with
        held := pre ++ post, baffle := p.baffle ++ [x], rxCr := setAt p.rxCr c (p.rxCr.getD c 0 + 1) })) ∧
    (16 ≤ p.baffle.length ∨ (c = 1 ∧ stashDiscarded s.blk f p x = false) →
      exec (.fabricCreditFree f c) s = .next s)) ∧
  (∀ (s : State) (f : Nat) (x : RxFlit) (r : List RxFlit), let p := getPort s.blk f
    let h := (x.grans.headD (0, false)).1.toNat
    let bad := messageBad s.blk f x.cls x.grans
    let gsig := x.cls = 3 ∧ mhOp h = 8
    p.baffle = x :: r → s.blk.power.hold = false ∨ p.ops = [] → ∃ t, exec (.fabricMessage f) s = .next t ∧
      (let y := getPort t.blk f
       y.baffle = r ∧
       (x.head = true → y.proto = if bad then min 255 (p.proto + 1) else p.proto) ∧
       (x.head = true → bad = true → y.ops = p.ops ∧
         (mhLen h ≠ 0 → ∃ m, Table.find y.cur x.cls = some m ∧ m.discard = true ∧ m.left = mhLen h)) ∧
       (x.head = true → bad = false → gsig → y.ops = p.ops ++ [(x.seq, 3, .gsig (fld h 28 16) (fld h 15 0))]) ∧
       (x.head = true → bad = false → ¬gsig → mhLen h = 0 →
         y.ops = p.ops ++ (if mhCend h then [(x.seq, x.cls, .cend (mhRegion h))] else [])) ∧
       (x.head = true → bad = false → ¬gsig → mhLen h ≠ 0 → y.ops = p.ops ∧
         Table.find y.cur x.cls = some ⟨x.seq, false, mhOp h, mhRegion h, mhOff h, mhLen h, mhCend h⟩) ∧
       (∀ m, x.head = false → Table.find p.cur x.cls = some m →
         let boot := x.cls = 3 ∧ m.op = 0xA
         y.proto = p.proto ∧
         (m.discard = true → y.ops = p.ops) ∧
         (m.discard = false → y.ops = p.ops ++
           (if boot then [(x.seq, x.cls, .boot m.off ((x.grans.take m.left).flatMap (fun g => granuleBytes g.1)))]
            else (x.grans.take m.left).zipIdx.map (fun g =>
              (x.seq, x.cls, .gran m.region m.op (m.off + 16 * g.2) g.1.1 g.1.2))) ++
           (if m.left ≤ 16 ∧ m.cend = true then [(x.seq, x.cls, .cend m.region)] else [])) ∧
         Table.find y.cur x.cls =
           if m.left ≤ 16 then none else some { m with off := m.off + 256, left := m.left - 16 }))) ∧
  (∀ (s : State) (f sq c g n : Nat) (pre post : List (Nat × Nat × RxOp)), let p := getPort s.blk f
    let b := putPort s.blk f { p with ops := pre ++ post }
    let k := getGate s.blk g
    let takes := s.blk.job.running = true ∧ k.held = true ∧ k.barUse = false
    let barred := seamBars s.blk (portHalf f) (curHalf (g / 1024))
    p.ops = pre ++ (sq, c, .gsig g n) :: post → (∀ o ∈ pre, ∀ i j, o.2.2 ≠ .gsig i j) →
    s.blk.power.hold = false →
    (earlierPending s.blk f p sq = true → exec (.fabricGsig f) s = .next s) ∧
    (earlierPending s.blk f p sq = false → takes → barred = false →
      exec (.fabricGsig f) s = becomes s (addSignal b g n)) ∧
    (earlierPending s.blk f p sq = false → takes → barred = true →
      exec (.fabricGsig f) s = becomes s (seamError b (0x5000 + f))) ∧
    (earlierPending s.blk f p sq = false → ¬takes → exec (.fabricGsig f) s = becomes s (portOnce b f 0x505))) ∧
  (∀ (s : State) (f sq c off : Nat) (d : List Byte) (pre post : List (Nat × Nat × RxOp)), let p := getPort s.blk f
    p.ops = pre ++ (sq, c, .boot off d) :: post → (∀ o ∈ pre, ∀ i j, o.2.2 ≠ .boot i j) →
    ∃ t, exec (.bootData f) s = .next t ∧ (getPort t.blk f).ops = pre ++ post ∧
      t.blk.start.image = s.blk.start.image.take off ++ d ∧
      t.blk.start.bootReq = (if s.blk.start.bootReq.any
        (fun q => decide (q.1 + 16 * q.2 ≤ t.blk.start.image.length)) then none else s.blk.start.bootReq)) ∧
  (∀ (s : State) (u : Nat) (r : CodRun) (x : RxFlit) (pre post : List RxFlit),
    let f := epPort r.job.src
    let p := getPort s.blk f
    let got := r.taken + r.inbuf.length
    let want := epFabOff r.job.src + got
    let h := (x.grans.headD (0, false)).1.toNat
    stashJob s.blk u = some r → s.blk.power.hold = false →
    (codecBarred s.blk u = true → exec (.stashFlitTake u) s = becomes s (codecLost s.blk u)) ∧
    (codecBarred s.blk u = false → p.held = pre ++ x :: post → x.cls = 1 → (∀ y ∈ pre, y.cls ≠ 1) →
      got < r.job.inBytes →
      (x.head = true → messageBad s.blk f 1 x.grans = false → mhRegion h = epPeerRegion r.job.src →
        Table.find p.cur 1 = none →
        ∃ t run, exec (.stashFlitTake u) s = .next t ∧ (getCodec t.blk u).run = some run ∧ run.inbuf = r.inbuf ∧
          (mhOff h = want → (getPort t.blk f).held = pre ++ post ∧ run.ending = none ∧
            (mhLen h ≠ 0 → Table.find (getPort t.blk f).cur 1 =
              some ⟨x.seq, false, 0, mhRegion h, mhOff h, mhLen h, false⟩)) ∧
          (mhOff h ≠ want → (getPort t.blk f).held = p.held ∧ run.ending = some 0x60D)) ∧
      (∀ m, x.head = false → Table.find p.cur 1 = some m → m.discard = false → m.region = epPeerRegion r.job.src →
        ∃ t run, exec (.stashFlitTake u) s = .next t ∧ (getCodec t.blk u).run = some run ∧
          (m.off = want → (getPort t.blk f).held = pre ++ post ∧ run.ending = none ∧
            (pathsClean s.blk → run.inbuf = (r.inbuf ++ (x.grans.take (min m.left 16)).flatMap
              (fun g => (granuleBytes g.1).map (fun y => (y, g.2)))).take (r.job.inBytes - r.taken))) ∧
          (m.off ≠ want →
            (getPort t.blk f).held = p.held ∧ run.ending = some 0x60D ∧ run.inbuf = r.inbuf))))

/-- A credit return on an UP port gives its class one credit more; at 32 it resets the port with 0x503 instead; on
another port it does nothing. A port with nothing ready drives FAB_TXV low and the flit and class as 0. The port
drives the flit of a class that its arbiter picks among those with a message ready, FAB_TXV high, at the cost of one
credit: for a message not yet begun the head flit with its header in granules 0 and 1, for a begun one the next
granules of its data, at most sixteen, after which the message goes on or, all sent, leaves. A begun message of a
class is completed before another of that class begins. A message whose source ended early is completed with poisoned
zero granules to its LEN, counts in PADDED, and 0x506 is recorded once per port and job; with none such nothing
changes. (R310, R311, R313, R317, R320, R321, R322, R212) -/
def Obligations.FabricSendsUnderCredit : Prop :=
  (∀ (s : State) (f c : Nat), let p := getPort s.blk f
    (f < 64 → c < 4 → p.state = 1 → p.credits.getD c 0 < 32 → exec (.fabricCreditReturn f c) s =
      becomes s (putPort s.blk f { p with credits := setAt p.credits c (p.credits.getD c 0 + 1) })) ∧
    (f < 64 → c < 4 → p.state = 1 → 32 ≤ p.credits.getD c 0 → exec (.fabricCreditReturn f c) s =
      becomes s (resetPort (report s.blk (0x5000 + f) 0x503 0) f)) ∧
    (p.state ≠ 1 → exec (.fabricCreditReturn f c) s = .next s)) ∧
  (∀ (s : State) (f : Nat), let p := getPort s.blk f
    f < 64 → p.state = 1 → ∃ t, exec (.fabricFlitSend f) s = .next t ∧
      (let y := getPort t.blk f
       (pickClass s.blk f p = none → y.txValid = false ∧ y.txFlit = 0 ∧ y.txCls = 0 ∧ y.credits = p.credits ∧ y.tx = p.tx) ∧
       (∀ c m i, pickClass s.blk f p = some (c, m, i) →
         y.txValid = true ∧ y.txCls = c ∧ y.flitsTx = p.flitsTx + 1 ∧ 0 < p.credits.getD c 0 ∧
         y.credits = setAt p.credits c (p.credits.getD c 0 - 1) ∧
         (∀ c', c' ≠ c → txQueue y c' = txQueue p c') ∧
         (m.headSent = false →
           let h := BitVec.ofNat 128 (msgHeader m.op m.region m.off m.len)
           y.txFlit = fabFlit [(h, false), (h, false)] ∧ (∀ x ∈ txQueue p c, x.headSent = false) ∧
           (0 < m.len → m.op ≠ 9 → txQueue y c = setAt (txQueue p c) i { m with headSent := true }) ∧
           (m.len = 0 ∨ m.op = 9 → txQueue y c = dropAt (txQueue p c) i)) ∧
         (m.headSent = true →
           let n := min 16 (m.len - 16 * m.flits)
           y.txFlit = fabFlit (m.data.take n) ∧ n ≤ m.data.length ∧
           txQueue y c = if m.len ≤ 16 * m.flits + n then dropAt (txQueue p c) i
             else setAt (txQueue p c) i { m with data := m.data.drop n, flits := m.flits + 1 })))) ∧
  (∀ (b : Block) (f : Nat) (p : Port),
    (pickClass b f p = none → ∀ c, c < 4 → readyMsg b p c = none) ∧
    (∀ c m i, pickClass b f p = some (c, m, i) → c < 4 ∧ readyMsg b p c = some (m, i)) ∧
    (∀ c m i, readyMsg b p c = some (m, i) → (txQueue p c)[i]? = some m ∧ 0 < p.credits.getD c 0 ∧
      ((∃ x ∈ txQueue p c, x.headSent = true) → m.headSent = true))) ∧
  (∀ (s : State) (f c : Nat), let p := getPort s.blk f
    let broken (m : TxMsg × Nat) : Bool := m.1.headSent && m.1.closed && decide (m.1.supplied < m.1.len)
    (∀ m i, p.state = 1 → (txQueue p c).zipIdx.find? broken = some (m, i) →
      let m' := { m with data := m.data ++ List.replicate (m.len - m.supplied) (0, true) }
      exec (.padded f c) s = becomes s (portOnce (putPort s.blk f
        { setTxQueue p c (setAt (txQueue p c) i m') with padded := min 0xFFFF (p.padded + 1) }) f 0x506) ∧
      m'.supplied = m.len) ∧
    (p.state ≠ 1 ∨ (txQueue p c).zipIdx.find? broken = none → exec (.padded f c) s = .next s))

/-- A DOWN port whose FAB_UP is high becomes UP with 32 credits per class and clean framing; another stays. A fall of
the peer, and DIS written 1, take an UP port DOWN; a port reset, by any cause and by FAB.CMD.RESET, takes it to RESET,
lowers FAB_UP and counts in RESETS. Each leaves no send credit, no held flit, no credit-return pulse and no outgoing
message on the port, clears its bit of FABRIC_MASK and raises UPDATE_SEQ. FAB.CMD.RESET of a port that is not UP takes
it to RESET and counts; the other causes need an UP port. The end of the reset makes the port DOWN with FAB_UP high
exactly where the block may raise it. DIS holds FAB_UP low, and DIS written 0 raises it where the block may and no
reset runs. CLR_COUNTS clears the five counters and the padded count and nothing else. (R328, R329, R330, R332, R25,
R57, R317) -/
def Obligations.PortStatesFollow : Prop :=
  ∀ (s : State) (f : Nat), f < 64 → let p := getPort s.blk f
    (p.state = 0 → p.up = true → ∃ t, exec (.portUp f) s = .next t ∧ portUp t.blk f = true ∧
      (getPort t.blk f).credits = [32, 32, 32, 32] ∧ (getPort t.blk f).frame = [0, 0, 0, 0] ∧
      t.blk.host.updateSeq = s.blk.host.updateSeq + 1) ∧
    (p.state ≠ 0 ∨ p.up = false → exec (.portUp f) s = .next s) ∧
    (∀ (c : Instr) (st : Nat), p.state = 1 →
      (c = .peerDown f ∧ st = 0) ∨ (c = .fabCfgDis f true ∧ st = 0) ∨ (c = .portReset f ∧ st = 2) ∨
        (c = .fabCmdReset f ∧ st = 2) →
      ∃ t, exec c s = .next t ∧ t.blk.host.updateSeq = s.blk.host.updateSeq + 1 ∧ portUp t.blk f = false ∧
        (let y := getPort t.blk f
         y.state = st ∧ y.credits = [0, 0, 0, 0] ∧ y.frame = [0, 0, 0, 0] ∧ y.held = [] ∧ y.tx = [] ∧
         y.txValid = false ∧ y.rxCr = [0, 0, 0, 0] ∧ (st = 2 → y.up = false ∧ y.resets = min 255 (p.resets + 1)) ∧
         (c = .peerDown f → y.peer = false) ∧ (c = .fabCfgDis f true → y.dis = true ∧ y.up = false))) ∧
    (p.state = 2 → exec (.portResetEnd f) s = becomes s (putPort s.blk f { p with state := 0, up := mayRaise s.blk f })) ∧
    (p.state ≠ 2 → exec (.portResetEnd f) s = .next s) ∧
    (p.state ≠ 1 → exec (.fabCmdReset f) s =
      becomes s (putPort s.blk f { p with state := 2, up := false, resets := min 255 (p.resets + 1) })) ∧
    (p.state ≠ 1 → ∃ t, exec (.fabCfgDis f true) s = .next t ∧ getPort t.blk f = { p with dis := true, up := false } ∧
      t.blk.host = s.blk.host) ∧
    (∃ t, exec (.fabCfgDis f false) s = .next t ∧ t.blk.host = s.blk.host ∧ getPort t.blk f = { p with
      dis := false
      up := if p.state = 2 then p.up else mayRaise (putPort s.blk f { p with dis := false }) f }) ∧
    (p.state ≠ 1 → exec (.peerDown f) s = becomes s (putPort s.blk f { p with peer := false })) ∧
    (p.state ≠ 1 → exec (.portReset f) s = .next s) ∧
    exec (.fabCmdClrCounts f) s = becomes s (putPort s.blk f
      { p with flitsTx := 0, flitsRx := 0, corr := 0, proto := 0, resets := 0, padded := 0 })

/-- Words that arrive on active channels of a direction wait, in order on each; words on others are not taken. Once
every active channel has eight, the beat is released: channel by channel in logical order, what the granule code gives
for the eight words, with the mark where a word is poisoned or uncorrectable; each channel's later words stay. The
other direction and Lee stay. With no active channel nothing happens. 64 port cycles after a beat began, the places of
every channel that has not delivered its part are poisoned, the places of the others are as delivered, and the missing
channels qualify; with nothing missing nothing happens. The window restarts the error counts and keeps CORR.
SEAM.CMD.RETIRE qualifies an active channel outside Calm mode. A qualified active channel retires: a spare takes its
logical index and the width stays, or without a spare the width falls by 1; the record counts the change, and with the
last channel gone every transfer that must cross ends. CLR_COUNTS clears CORR and UNCORR. (R19, R20, R21, R22, R338,
R344, R345, R358, R377) -/
def Obligations.SeamBeatsAndChannels : Prop :=
  (∀ (s : State) (east : Bool) (words : List (Nat × BitVec 144)),
    let chans := beatChans s.blk
    let all := arrivedOf s.blk east ++ words.filter (fun w => chans.contains w.1)
    let whole := chans.all (partHere all)
    let out (b : Block) (e : Bool) := if e then b.seam.outEast else b.seam.outWest
    (seamWidth s.blk = 0 → exec (.seamBeatRelease east words) s = .next s) ∧
    (seamWidth s.blk ≠ 0 → ∃ t, exec (.seamBeatRelease east words) s = .next t ∧
      out t.blk (!east) = out s.blk (!east) ∧ arrivedOf t.blk (!east) = arrivedOf s.blk (!east) ∧ t.blk.lee = s.blk.lee ∧
      (whole = false → out t.blk east = out s.blk east ∧ arrivedOf t.blk east = all) ∧
      (whole = true →
        out t.blk east = chans.flatMap (fun c => (partWords all c).map (fun w =>
          ((decodeGranule w).1, (decodeGranule w).2 == .poisoned || (decodeGranule w).2 == .uncorrectable))) ∧
        ∀ c, (arrivedOf t.blk east).filter (fun w => w.1 == c) = (all.filter (fun w => w.1 == c)).drop 8))) ∧
  (∀ (s : State) (east : Bool) (c : Nat),
    let words := arrivedOf s.blk east
    let chans := beatChans s.blk
    let due := (getCh s.blk c).state = 1 ∧ seamWidth s.blk ≠ 0 ∧ words ≠ [] ∧ partHere words c = false
    (due → ∃ t, exec (.beatPartMissing east c) s = .next t ∧
      (let beat := if east then t.blk.seam.outEast else t.blk.seam.outWest
       beat.length = 8 * chans.length ∧
       (∀ c' ∈ chans, partHere words c' = false → (getCh t.blk c').qualified = true) ∧
       ∀ i k c', chans[i]? = some c' → k < 8 →
         (partHere words c' = false → (beat.getD (8 * i + k) (0, false)).2 = true) ∧
         (partHere words c' = true → let w := decodeGranule ((partWords words c').getD k 0)
           beat.getD (8 * i + k) (0, false) = (w.1, w.2 == .poisoned || w.2 == .uncorrectable)))) ∧
    (¬due → exec (.beatPartMissing east c) s = .next s)) ∧
  (∀ s : State, ∃ t, exec .seamWindow s = .next t ∧ ∀ c, let y := getCh t.blk c
    y.winWest = 0 ∧ y.winEast = 0 ∧ y.winUnc = 0 ∧ y.noted = false ∧ y.state = (getCh s.blk c).state ∧
    y.corr = (getCh s.blk c).corr ∧ y.logical = (getCh s.blk c).logical) ∧
  (∀ (s : State) (c : Nat),
    ((getCh s.blk c).state = 1 → inCalm s.blk = false →
      exec (.seamCmdRetire c) s = becomes s (putCh s.blk c { getCh s.blk c with qualified := true })) ∧
    ((getCh s.blk c).state ≠ 1 ∨ inCalm s.blk = true → exec (.seamCmdRetire c) s = .next s)) ∧
  (∀ (s : State) (c : Nat), c < 34 → (getCh s.blk c).state = 1 → (getCh s.blk c).qualified = true →
    s.blk.seam.trained = true → inCalm s.blk = false →
    ∃ t, exec (.seamRetired c) s = .next t ∧ (getCh t.blk c).state = 2 ∧
      t.blk.host.updateSeq = s.blk.host.updateSeq + 1 ∧
      (∀ i r, chansIn s.blk 0 = i :: r → (getCh t.blk i).state = 1 ∧ (getCh t.blk i).logical = (getCh s.blk c).logical ∧
        seamWidth t.blk = seamWidth s.blk) ∧
      (chansIn s.blk 0 = [] → seamWidth t.blk + 1 = seamWidth s.blk) ∧
      (seamDown t.blk = true → ∀ sid x, (getStream s.blk sid).active = some x →
        streamCrosses s.blk (sid / 256) (getStream s.blk sid) x = true →
        (getStream t.blk sid).active.any (fun y => y.ending.isSome) = true)) ∧
  (∀ (s : State) (c : Nat), (getCh s.blk c).qualified = false ∨ (getCh s.blk c).state ≠ 1 ∨ inCalm s.blk = true →
    exec (.seamRetired c) s = .next s) ∧
  (∀ s : State, ∃ t, exec .seamCtrlClrCounts s = .next t ∧ t.blk.seam.uncorr = 0 ∧
    ∀ c, (getCh t.blk c).corr = 0 ∧ (getCh t.blk c).state = (getCh s.blk c).state)

/-- A report of a source with nothing waiting waits; one of the same code raises the waiting COUNT by 1; one of
another code, or at COUNT 0xFFFF, raises LOST. The first report of a source kind whose class is deferred, uncontained,
link transient or permanent is captured with COUNT 1 and the SEQ of WR_SEQ; a valid capture stays. The log takes the
next waiting report: into the open record that coalesces it, what passes 0xFFFF as a new record, or as a new record at
WR_SEQ, which rises by 1; with 4,096 unread the oldest is lost, RD_SEQ rises by 1 and LOST counts it. A write of
RD_SEQ takes effect from RD_SEQ to WR_SEQ and is ignored otherwise. CLR_LOST clears LOST; CLR_LOG sets RD_SEQ to
WR_SEQ; neither changes anything else. (R348, R351, R352, R353, R354, R356) -/
def Obligations.EventLogKeepsOrder : Prop :=
  (∀ (s : State) (src code : Nat) (d : BitVec 128), src < 65536 → code < 4096 →
    let l := s.blk.evt
    let cls := classOf code d
    let k := src / 4096 % 16
    let r : Report := ⟨src, cls, code, 1, d⟩
    ∃ t, exec (.eventReport src code d) s = .next t ∧ t.blk.evt.wrSeq = l.wrSeq ∧ t.blk.evt.records = l.records ∧
      (Table.find l.waiting src = none → Table.find t.blk.evt.waiting src = some r ∧ t.blk.evt.lost = l.lost) ∧
      (∀ w, Table.find l.waiting src = some w → w.code = code → w.count < 0xFFFF →
        Table.find t.blk.evt.waiting src = some { w with count := w.count + 1 } ∧ t.blk.evt.lost = l.lost) ∧
      (∀ w, Table.find l.waiting src = some w → (w.code ≠ code ∨ 0xFFFF ≤ w.count) →
        t.blk.evt.waiting = l.waiting ∧ t.blk.evt.lost = min 0xFFFFFFFF (l.lost + 1)) ∧
      (cls = 1 ∨ cls = 2 ∨ cls = 3 ∨ cls = 4 → l.firstValid.getLsbD k = false →
        t.blk.evt.firstValid.getLsbD k = true ∧ Table.find t.blk.evt.first k = some ⟨l.wrSeq, l.cycle, r⟩) ∧
      (l.firstValid.getLsbD k = true → t.blk.evt.first = l.first)) ∧
  (∀ (s : State) (src : Nat) (r : Report), nextWaiting s.blk.evt = some (src, r) →
    let l := { s.blk.evt with waiting := Table.erase s.blk.evt.waiting src, lastTaken := src }
    ∃ t, exec .eventAppend s = .next t ∧ Table.find t.blk.evt.waiting src = none ∧ t.blk.evt.lastTaken = src ∧
      (coalesceInto l r = none →
        t.blk.evt.wrSeq = l.wrSeq + 1 ∧
        Table.find t.blk.evt.records (l.wrSeq.toNat % 4096) = some ⟨l.wrSeq, l.cycle, r⟩ ∧
        t.blk.evt.rdSeq = (if unread l = 4096 then l.rdSeq + 1 else l.rdSeq) ∧
        t.blk.evt.lost = (if unread l = 4096 then min 0xFFFFFFFF (l.lost + 1) else l.lost)) ∧
      (∀ i x, coalesceInto l r = some (i, x) → x.report.count + r.count ≤ 0xFFFF →
        t.blk.evt.wrSeq = l.wrSeq ∧ t.blk.evt.lost = l.lost ∧
        Table.find t.blk.evt.records i =
          some { x with report := { x.report with count := x.report.count + r.count } }) ∧
      (∀ i x, coalesceInto l r = some (i, x) → 0xFFFF < x.report.count + r.count →
        t.blk.evt.wrSeq = l.wrSeq + 1 ∧ Table.find t.blk.evt.records (l.wrSeq.toNat % 4096) =
          some ⟨l.wrSeq, l.cycle, { r with count := x.report.count + r.count - 0xFFFF }⟩)) ∧
  (∀ s : State, s.blk.evt.waiting = [] → exec .eventAppend s = .next s) ∧
  (∀ (s : State) (v : BitVec 32),
    ((v - s.blk.evt.rdSeq).toNat ≤ (s.blk.evt.wrSeq - s.blk.evt.rdSeq).toNat →
      exec (.evtRdSeqWrite v) s = becomes s { s.blk with evt := { s.blk.evt with rdSeq := v } }) ∧
    ((s.blk.evt.wrSeq - s.blk.evt.rdSeq).toNat < (v - s.blk.evt.rdSeq).toNat → exec (.evtRdSeqWrite v) s = .next s)) ∧
  (∀ s : State, exec .evtCtrlClrLost s = becomes s { s.blk with evt := { s.blk.evt with lost := 0 } } ∧
    exec .evtCtrlClrLog s = becomes s { s.blk with evt := { s.blk.evt with rdSeq := s.blk.evt.wrSeq } })

/-- A written RW word reads back as the value under the mask of its fields, for the coalescing, Vane policy, watchdog
and budget registers, the link policy, error, queue and tag registers of every link, the seam policy, and LEE.SCRUB
and LEE.RETIRE of every usable Current; the write changes no Lee byte, no Eddy and no queue. Under the configuration
lock a write of an RWL word changes nothing; so does an unaligned write. A W1C write clears the bits written as 1 of
FIRST_VALID, JOBEND, the valid bit of an Eddy's FAULT and the OVF of a Gate, keeps the others, and leaves a bit set
that the block has set in the same management cycle. Each CLR bit clears the counts of its register group and no other
field: IMEM_ERR, the residue counts, the drain flags, the quantiser counts, the Lee counts of a Current with its
banks, the correction counts of the fault window; in a Current that is not usable nothing changes. (R5, R6, R7, R8,
R95, R127, R155, R249, R356, R357, R366) -/
def Obligations.RegistersAndCounters : Prop :=
  (∀ (s : State) (a v : BitVec 32) (mask : Nat),
    (a.toNat, mask) ∈ [(0x100C, 0x80FFFFFF), (0x2024, 0x800000FF), (0x200020, 0x3F), (0x200104, 0xFFFF),
        (0x4000108, 0x8FFFFFFF)] ∨
      (∃ l, l < 24 ∧ (a.toNat - (0x2000000 + 0x10000 * l), mask) ∈ [(0xA4, 0x80001FFF), (0xA8, 0xFFFFFFFF), (0xAC, 0xFF),
        (0xB0, 0xFFFFFFFF), (0xB4, 0xFFFF), (0xCC, 0xFFFFFF)] ∧ 0x2000000 + 0x10000 * l ≤ a.toNat) ∨
      (∃ n, curUsable s.blk n = true ∧ (a.toNat, mask) ∈ [(0x10B0000 + 0x100000 * n, 0x80FFFFFF),
        (0x10B0008 + 0x100000 * n, 0xFFFF)]) →
    ∃ t, exec (.registerWrite a v) s = .next t ∧ regValue t.fuses t.blk a.toNat = v.toNat &&& mask ∧
      t.blk.lee = s.blk.lee ∧ t.blk.eddies = s.blk.eddies ∧ t.blk.host = s.blk.host ∧ t.blk.job = s.blk.job) ∧
  (∀ (s : State) (a v : BitVec 32), a.toNat % 4 ≠ 0 ∨
      (s.blk.start.lock = true ∧ a.toNat ∈ [0x200008, 0x200010, 0x200014, 0x200018, 0x300010]) →
    exec (.registerWrite a v) s = .next s) ∧
  (∀ (s : State) (v : BitVec 32), let now (x : W1cBit) := s.blk.setNow.contains x
    (∃ t, exec (.w1cWrite 0x1014 v) s = .next t ∧ t.blk.evt.first = s.blk.evt.first ∧ ∀ k, k < 16 →
      t.blk.evt.firstValid.getLsbD k = (s.blk.evt.firstValid.getLsbD k && !(v.getLsbD k && !now (.first k)))) ∧
    exec (.w1cWrite 0x101260 v) s = (if v.getLsbD 29 && !now .jobEnd then
      becomes s { s.blk with host := { s.blk.host with jobEnd := false } } else .next s) ∧
    (∀ (a : BitVec 32) n i, n < 8 → i < 16 → a.toNat = 0x1000004 + 0x100000 * n + 0x8000 * i →
      exec (.w1cWrite a v) s = if curUsable s.blk n && v.getLsbD 31 && !now (.fault (16 * n + i)) then
        becomes s (updEddy s.blk (16 * n + i) (fun x => { x with faultValid := false })) else .next s) ∧
    (∀ (a : BitVec 32) n g, n < 8 → g < 1024 → a.toNat = 0x1081000 + 0x100000 * n + 4 * g →
      exec (.w1cWrite a v) s = if curUsable s.blk n && v.getLsbD 0 && !now (.ovf (1024 * n + g)) then
        becomes s (putGate s.blk (1024 * n + g) { getGate s.blk (1024 * n + g) with ovf := false }) else .next s)) ∧
  (∀ (s : State) (e : Nat), let upd (f : Eddy → Eddy) := if curUsable s.blk (e / 16) then becomes s (updEddy s.blk e f) else .next s
    exec (.eddyCtrlClrImemErr e) s = upd (fun x => { x with imemCorr := 0 }) ∧
    exec (.eddyMatCtrlClrResidue e) s = upd (fun x => { x with residue := [] }) ∧
    exec (.eddyMatCtrlClrFlags e) s = upd (fun x => { x with longDrains := 0, satDrains := 0 }) ∧
    exec (.eddyQntCtrlClrStat e) s = upd (fun x => { x with nanCvt := 0, satCvt := 0 })) ∧
  (∀ (s : State) (n : Nat), (curUsable s.blk n = false → exec (.leeCtrlClrCounts n) s = .next s) ∧
    (curUsable s.blk n = true → ∃ t, exec (.leeCtrlClrCounts n) s = .next t ∧
      (let c := getCur t.blk n
       c.scrubPasses = 0 ∧ c.scrubUncorr = 0 ∧ c.atomRefused = 0 ∧ c.atomLate = 0 ∧
       c.retireThresh = (getCur s.blk n).retireThresh) ∧
      (∀ m, m ≠ n → getCur t.blk m = getCur s.blk m) ∧
      ∀ e k, k < 48 → (getBank t.blk e k).state = (getBank s.blk e k).state ∧
        (getBank t.blk e k).corr = (if e / 16 = n then 0 else (getBank s.blk e k).corr))) ∧
  (∀ s : State, ∃ t, exec .fltCtrlClrCounts s = .next t ∧ t.blk.seam.xbarEast = 0 ∧ t.blk.seam.xbarWest = 0 ∧
    t.blk.seam.uncorr = s.blk.seam.uncorr ∧
    ∀ n, (getCur t.blk n).corrMat = 0 ∧ (getCur t.blk n).corrSwitch = 0 ∧
      (getCur t.blk n).poisonCount = (getCur s.blk n).poisonCount)

/-- When Windsock has taken a job_start whose image is valid, that R436 does not refuse and that waits for no
zeroization: for every entry of the image's Task table, the Task's Eddy then holds the entry's arguments in s0 to s7,
0 in s8 to s31, in every address and loop register and in p1 to p7, empty return and loop stacks, cycle counter 0, and
the entry index of the image as the index of the next instruction. (R71) -/
def Obligations.StartedTaskHoldsItsArguments : Prop :=
  ∀ (s : State) (src : Nat) (e : BitVec 512) (r q : Region × Nat) (im : Image), commandIn s.blk src 0x10 e →
    leeEp s.blk false (cmdArg e 0) 16 = some r → leeEp s.blk true (cmdArg e 1) (fld (cmdArg e 2) 31 0) = some q →
    let b := scanImage s.blk r.1 r.2
    readImage b r.1 r.2 = some im → jobRefusal b (some im) = none → freeing b = false →
    ∃ u, exec (.jobStart src) s = .next u ∧ ∀ k ∈ im.tasks, let x := getEddy u.blk k.eddy
      (∀ i, i < 8 → x.sreg.toList.getD i 0 = k.args.getD i 0) ∧ (∀ i, 8 ≤ i → x.sreg.toList.getD i 0 = 0) ∧
      (∀ i, x.areg.toList.getD i 0 = 0) ∧ (∀ i, x.lreg.toList.getD i 0 = 0) ∧ x.preg = 0 ∧
      x.calls = [] ∧ x.loops = [] ∧ x.cycles = 0 ∧ x.pc = k.entry

/-- job_start with addresses that it may not name ends with 0x838, of an image that R436 refuses with its code, and
while a freed Region is being zeroed it waits; an accepted one makes the job running, numbers it on, takes the image's
seed where that is not 0, and holds its streams, its contexts and its Gates at their initial values. The Vanes of one
Eddy after another are turned on; with the last of them every loading Task of the job runs; without a job they are
turned off. job_abort of the running job's number stops it, of another is refused with 0x838. A stop leaves no Task of
the job running or loading, nothing in its queues, every stream ending, no COD job waiting and the running ones ending
with 0x20E, and no wait at any Gate; Gate values stay where no waiting COD job signals. The watchdog stops the job
with 0x810 once a Task has been found waiting for the watchdog time, and not before. The end of a job, stopped or with
every Task halted, waits until what it holds is at rest; it leaves no job running, every Eddy idle, no Gate, stream,
context or Region held. (R42, R87, R342, R381, R393, R413, R435, R436, R437) -/
def Obligations.JobsStartStopAndEnd : Prop :=
  (∀ (s : State) (src : Nat) (e : BitVec 512), commandIn s.blk src 0x10 e →
    leeEp s.blk false (cmdArg e 0) 16 = none ∨ leeEp s.blk true (cmdArg e 1) (fld (cmdArg e 2) 31 0) = none →
    exec (.jobStart src) s = answered s s.blk src 0x838) ∧
  (∀ (s : State) (src : Nat) (e : BitVec 512) (r q : Region × Nat), commandIn s.blk src 0x10 e →
    leeEp s.blk false (cmdArg e 0) 16 = some r → leeEp s.blk true (cmdArg e 1) (fld (cmdArg e 2) 31 0) = some q →
    let b := scanImage s.blk r.1 r.2
    (∀ c, jobRefusal b (readImage b r.1 r.2) = some c → exec (.jobStart src) s = answered s b src c) ∧
    (∀ im, readImage b r.1 r.2 = some im → jobRefusal b (some im) = none →
      (freeing b = true → exec (.jobStart src) s = becomes s b) ∧
      (freeing b = false → (im.gates.map (·.1)).Nodup →
        ∃ t, exec (.jobStart src) s = .next t ∧ t.blk.job.running = true ∧ t.blk.job.stop = none ∧
          t.blk.job.number = (if s.blk.job.number = 0xFFFFFFFF then 1 else s.blk.job.number + 1) ∧
          t.blk.job.eddies = im.tasks.map (·.eddy) ∧ t.blk.job.tenant = im.tenant ∧
          (im.seed ≠ 0 → t.blk.job.seed = im.seed) ∧
          (∀ sid ∈ im.streams, (getStream t.blk sid).held = true) ∧ (∀ c ∈ im.ctxs, (getCtx t.blk c).held = true) ∧
          (∀ g ∈ im.gates, (getGate t.blk g.1).held = true ∧ (getGate t.blk g.1).value = g.2 ∧
            (getGate t.blk g.1).barUse = false ∧ (getGate t.blk g.1).waits = [])))) ∧
  (∀ (s : State) (src : Nat) (e : BitVec 512), commandIn s.blk src 0x11 e →
    (s.blk.job.running = true → fld (cmdArg e 0) 31 0 = s.blk.job.number.toNat →
      ∃ t, exec (.jobAbort src) s = .next t ∧ t.blk.job.stop = some (s.blk.job.stop.getD 0) ∧
        Table.find t.blk.host.running src = none) ∧
    (s.blk.job.running = false ∨ fld (cmdArg e 0) 31 0 ≠ s.blk.job.number.toNat →
      exec (.jobAbort src) s = answered s s.blk src 0x838)) ∧
  (∀ s : State, s.blk.job.running = true → s.blk.job.stop.isSome = true → s.blk.job.stopped = false →
    ∃ t, exec .uncontainedStop s = .next t ∧ t.blk.job.stopped = true ∧ t.blk.job.stop = s.blk.job.stop ∧
      (∀ e ∈ s.blk.job.eddies, (getEddy t.blk e).run ≠ .running ∧ (getEddy t.blk e).run ≠ .loading ∧
        (getEddy t.blk e).queues = [] ∧ (getEddy t.blk e).matOps = [] ∧ (getEddy t.blk e).wait = .none) ∧
      (∀ sid x, (getStream t.blk sid).active = some x → x.ending.isSome = true) ∧
      (∀ u, (getCodec t.blk u).queue = [] ∧ ∀ r, (getCodec t.blk u).run = some r → r.ending = some 0x20E) ∧
      (∀ g, (getGate t.blk g).waits = [] ∧ (getGate t.blk g).barWaits = [] ∧
        ((∀ u, (getCodec s.blk u).queue = []) → (getGate t.blk g).value = (getGate s.blk g).value))) ∧
  (∀ s : State, s.blk.job.running = true → s.blk.job.stop = none → s.blk.power.hold = false →
    let w := s.blk.job.eddies.foldl (watchEddy s.blk) s.blk.job.waited
    ∃ t, exec .watchdog s = .next t ∧ t.blk.job.waited = w ∧
      ((∀ p ∈ w, p.2.1 < s.blk.job.watchdog) → t.blk.job.stop = none) ∧
      ((∃ p ∈ w, s.blk.job.watchdog ≤ p.2.1) → t.blk.job.stop = some 0x810)) ∧
  (∀ (s : State) (n : Nat), n < 8 → s.blk.power.hold = false →
    let begins (t : State) : Prop := t.blk.power.vaneQ = [] → s.blk.job.running = true → s.blk.job.stopped = false →
      ∀ e ∈ s.blk.job.eddies, (getEddy s.blk e).run = .loading → (getEddy t.blk e).run = .running
    (∀ e r, Table.get [] s.blk.power.vaneQ n = e :: r →
      ∃ t, exec (.vanePowerStep n) s = .next t ∧ t.blk.power.vaneOn = setInsert s.blk.power.vaneOn e ∧
        Table.get [] t.blk.power.vaneQ n = r ∧ begins t) ∧
    (Table.get [] s.blk.power.vaneQ n = [] → s.blk.job.running = true →
      ∃ t, exec (.vanePowerStep n) s = .next t ∧ t.blk.power = s.blk.power ∧ begins t) ∧
    (∀ e, Table.get [] s.blk.power.vaneQ n = [] → s.blk.job.running = false →
      s.blk.power.vaneOn.find? (fun e => e / 16 == n) = some e →
      exec (.vanePowerStep n) s =
        becomes s { s.blk with power := { s.blk.power with vaneOn := setErase s.blk.power.vaneOn e } })) ∧
  (∀ (s : State) (fails : List (Nat × Nat)), let b := if s.blk.job.stopped then s.blk else stopAll s.blk
    s.blk.job.running = true → s.blk.power.hold = false →
    s.blk.job.stopped = true ∨ (s.blk.job.stop = none ∧ ∀ e ∈ s.blk.job.eddies, (getEddy s.blk e).run = .halted) →
    (atRest b = false → exec (.jobEnd fails) s = becomes s b) ∧
    (atRest b = true → ∃ t, exec (.jobEnd fails) s = .next t ∧ t.blk.job.running = false ∧
      t.blk.job.lastTenant = some s.blk.job.tenant ∧
      (∀ e, (getEddy t.blk e).run = .idle) ∧ (∀ g, (getGate t.blk g).held = false) ∧
      (∀ i, (getStream t.blk i).held = false) ∧ (∀ c, (getCtx t.blk c).held = false) ∧
      (∀ id r, getRegion t.blk id = some r → r.held = false)))

/-- For every state whose RST_COLD_N is low and RST_WARM_N high, and straps that enable every Current: after
RST_COLD_N rises, each listed register of the Windsock, start, power, Eddy, stream, Lee, link, port and seam windows,
for every index of its group, reads the reset value of its table; Lee has no listed byte, no job runs, no Region is
allocated, no ring is enabled, nothing waits in the event log but the record of what the reset interrupted, and the
fuses are as before. (R22, R95, R127, R227, R249, R307, R332, R356, R357, R382, R399, R440) -/
def Obligations.ColdResetLeavesResetValues : Prop :=
  ∀ (s : State) (straps : BitVec 32), s.blk.start.coldLow = true → s.blk.start.warmLow = false →
    fld straps.toNat 24 17 = 255 →
    ∃ t, exec (.rstColdN straps) s = .next t ∧ t.fuses = s.fuses ∧ t.blk.lee.mem = [] ∧ t.blk.lee.regions = [] ∧
      t.blk.job.running = false ∧ t.blk.evt.records = [] ∧ (∀ r, (getRing t.blk r).en = false) ∧
      (∀ p ∈ t.blk.evt.waiting, p.1 = 0xC000) ∧
      (let reg := regValue t.fuses t.blk
       (∀ p ∈ [(0x1000, 0), (0x1004, 0), (0x1008, 0), (0x100C, 0x80061A80), (0x1014, 0), (0x2020, 0), (0x2024, 0x80000002),
          (0x101100, 0), (0x101108, 0), (0x200008, 0), (0x20000C, 0), (0x200010, 1), (0x200014, 0x190), (0x200018, 0x708),
          (0x20001C, 0), (0x200020, 0xA), (0x200104, 0x618), (0x200108, 0), (0x200280, 0), (0x21F0400, 0), (0x4000104, 0),
          (0x4000108, 0x810005A0), (0x4000110, 0)], reg p.1 = p.2) ∧
       (∀ n, n < 8 → reg (0x200110 + 4 * n) = 0x4B00E10 ∧ reg (0x200130 + 4 * n) = 0 ∧
          reg (0x10B0000 + 0x100000 * n) = 0x80040000 ∧ reg (0x10B0004 + 0x100000 * n) = 0 ∧
          reg (0x10B0008 + 0x100000 * n) = 0x40 ∧ reg (0x10B000C + 0x100000 * n) = 0) ∧
       (∀ n e, n < 8 → e < 16 → reg (0x1000000 + 0x100000 * n + 0x8000 * e) = 0 ∧
          reg (0x1000040 + 0x100000 * n + 0x8000 * e) = 0x76543210 ∧ reg (0x1000044 + 0x100000 * n + 0x8000 * e) = 0 ∧
          reg (0x10B0100 + 0x100000 * n + 4 * e) = 0x30) ∧
       (∀ n i, n < 8 → i < 256 → reg (0x10A0004 + 0x100000 * n + 0x40 * i) = 0x7FFFFFFF) ∧
       (∀ l, l < 24 → reg (0x20000A4 + 0x10000 * l) = 0x80000810 ∧ reg (0x20000A8 + 0x10000 * l) = 0x5780 ∧
          reg (0x20000AC + 0x10000 * l) = 0x64 ∧ reg (0x20000B0 + 0x10000 * l) = 0xF000E000 ∧
          reg (0x20000B4 + 0x10000 * l) = 0x100 ∧ reg (0x20000CC + 0x10000 * l) = 0x3E8 ∧ reg (0x20000D4 + 0x10000 * l) = 0) ∧
       (∀ f, f < 64 → reg (0x3000008 + 0x1000 * f) = 0x1000 ∧ reg (0x3000014 + 0x1000 * f) = 0))

/-- A falling reset pin puts the block in reset, stops the job without a report and clears the configuration lock; a
warm one keeps the event records and the Vane maps. RST_COLD_N rising begins S0 with the sampled straps and no failed
attempt; RST_WARM_N rising takes START.OVR in their place when it is valid and keeps ATTEMPTS; while the other pin is
low, and after a scan until a cold reset, the block stays in reset. S0 ends in S1 with every needed PLL locked and a
boot source that is not reserved, and fails with 0x801 or 0x802 otherwise. S1 fails with 0x803 for the ROM and 0x804
for the SRAM. S2 waits for the image and ends with it verified, or at once in BLANK, or fails with 0x805, 0x806 or the
code of the image. S3 leaves Lee zero and the Eddies with 24 banks and clean memories usable, S4 the Vane maps of its
check; they fail with 0x808 and 0x809 when no Eddy of C0 is left. S5 leaves as many channels active as train, at most
32, and fails with 0x80A when none does and an east Current needs one. S6 waits for training links and fails with
0x80B below MIN_LINKS. S7 ends in Run: MGT_READY, UPDATE_SEQ 1, FAB_UP on every DOWN port that is not disabled. A
failed stage and a stage timeout (0x80C) record cause, stage and one attempt more, and lead to S0 or to Calm.
START.LOCK sets the lock. A needed PLL's lock shows in its bit. Image words append in S2, and BOOT_GO gives the
length. (R365, R366, R367, R368, R370, R371, R372, R373, R374, R375, R376, R378) -/
def Obligations.ResetsAndStartStages : Prop :=
  (∀ (s : State) (cold : Bool), ∃ t, exec (.resetAssert cold) s = .next t ∧ t.blk.start.phase = .reset ∧
    t.fuses = s.fuses ∧ t.blk.job.running = false ∧ t.blk.start.lock = false ∧
    (cold = true → t.blk.start.coldLow = true ∧ t.blk.start.attempts = 0) ∧
    (cold = false → t.blk.start.warmLow = true ∧ t.blk.evt.records = s.blk.evt.records ∧ t.blk.evt.waiting = [] ∧
      t.blk.start.attempts = s.blk.start.attempts ∧ ∀ e, (getEddy t.blk e).vaneMap = (getEddy s.blk e).vaneMap)) ∧
  (∀ (s : State) (w : BitVec 32),
    (s.blk.start.coldLow = true → ∃ t, exec (.rstColdN w) s = .next t ∧
      t.blk.start.coldLow = false ∧ t.blk.start.straps = strapsOf w ∧
      t.blk.start.attempts = 0 ∧ t.blk.sec.state = lifecycleOf s.fuses ∧
      t.blk.start.phase = if s.blk.start.warmLow then .reset else .stage 0) ∧
    (s.blk.start.coldLow = false → exec (.rstColdN w) s = .next s) ∧
    (s.blk.start.warmLow = true →
      ∃ t, exec (.rstWarmN w) s = .next t ∧ t.blk.start.warmLow = false ∧
        t.blk.start.attempts = s.blk.start.attempts ∧
        (s.blk.start.coldLow = true ∨ s.blk.start.scanned = true → t.blk.start.phase = s.blk.start.phase) ∧
        (s.blk.start.coldLow = false → s.blk.start.scanned = false → t.blk.start.phase = .stage 0 ∧
          t.blk.start.straps = strapsOf (if s.blk.start.ovr.getLsbD 0 then s.blk.start.ovr else w))) ∧
    (s.blk.start.warmLow = false → exec (.rstWarmN w) s = .next s)) ∧
  (∀ (s : State) (bad : List (Nat × Nat)), let st := s.blk.start
    let c := Instr.startStageEnd bad
    let fails (stage code : Nat) (c : Instr) := ∃ t, exec c s = .next t ∧ t.blk.start.cause = code ∧
      t.blk.start.causeStage = stage ∧ t.blk.start.attempts = min 255 (st.attempts + 1) ∧
      (t.blk.start.phase = .stage 0 ∨ t.blk.start.phase = .calm) ∧
      (st.straps.calmAfter ≤ st.attempts + 1 → t.blk.start.phase = .calm)
    let goes (stage : Nat) (q : State → Prop) := ∃ t, exec c s = .next t ∧ t.blk.start.phase = .stage stage ∧ q t
    let locked := pllNeeded s.blk - (pllNeeded s.blk &&& st.pll.toNat) = 0
    let none' (k : Nat) := ∀ i, (k, i) ∉ bad
    let usable (e : Nat) : Prop := curEnabled s.blk (e / 16) = true ∧ (1, e) ∉ bad ∧
      24 ≤ (List.range 48).countP (fun k => (getBank s.blk e k).state != 2 && !bad.contains (0, 48 * e + k))
    let mapped := (List.range 128).foldl (checkVanes bad) s.blk
    let vanes (e : Nat) : Prop := physUsed (getEddy mapped e).vaneMap ≠ []
    let trains (ch : Nat) : Bool :=
      !bad.contains (0, ch) && (getCh s.blk ch).state != 2 && (decide (ch < 32) || st.straps.spares)
    let present := (List.range 24).filter (linkPresent s.blk)
    (st.phase = .stage 0 → st.straps.boot = 3 → fails 0 0x802 c) ∧
    (st.phase = .stage 0 → st.straps.boot ≠ 3 → ¬locked → fails 0 0x801 c) ∧
    (st.phase = .stage 0 → st.straps.boot ≠ 3 → locked → goes 1 (fun _ => True)) ∧
    (st.phase = .stage 1 → ¬none' 0 → fails 1 0x803 c) ∧
    (st.phase = .stage 1 → none' 0 → ¬none' 1 → fails 1 0x804 c) ∧
    (st.phase = .stage 1 → none' 0 → none' 1 → goes 2 (fun t => t.blk.start.image = [])) ∧
    (st.phase = .stage 2 → s.blk.sec.state = 0 → goes 3 (fun t => t.blk.start.monitor = true)) ∧
    (st.phase = .stage 2 → s.blk.sec.state = 4 → fails 2 0x806 c) ∧
    (st.phase = .stage 2 → s.blk.sec.state ≠ 0 → s.blk.sec.state ≠ 4 →
      (imageWhole st = false → bad = [] → exec c s = .next s) ∧
      (imageWhole st = false → bad ≠ [] → fails 2 0x805 c) ∧
      (imageWhole st = true → let m := imageOf st
        (∀ r, imageRefusal s.fuses s.blk.sec.state m.1 m.2 = some r → fails 2 r.1 c) ∧
        (imageRefusal s.fuses s.blk.sec.state m.1 m.2 = none → goes 3 (fun t => t.blk.start.fw = true)))) ∧
    (st.phase = .stage 3 → (∃ e, e < 16 ∧ usable e) → goes 4 (fun t =>
      t.blk.lee.mem = [] ∧ t.blk.lee.poison = [] ∧ t.blk.lee.err = [] ∧ ∀ e, e < 128 → (eddyUsable t.blk e = true ↔ usable e))) ∧
    (st.phase = .stage 3 → (∀ e, e < 16 → ¬usable e) → fails 3 0x808 c) ∧
    (st.phase = .stage 4 → (∃ e, e < 16 ∧ vanes e) → goes 5 (fun t => ∀ e, e < 128 →
      (getEddy t.blk e).vaneMap = (getEddy mapped e).vaneMap ∧
      (eddyUsable t.blk e = true ↔ eddyUsable s.blk e = true ∧ vanes e))) ∧
    (st.phase = .stage 4 → (∀ e, e < 16 → ¬vanes e) → fails 4 0x809 c) ∧
    (st.phase = .stage 5 → (List.range 34).any trains = true → goes 6 (fun t => t.blk.seam.trained = true ∧
      seamWidth t.blk = min 32 ((List.range 34).countP trains))) ∧
    (st.phase = .stage 5 → (List.range 34).any trains = false → (∃ n, 4 ≤ n ∧ n < 8 ∧ curEnabled s.blk n = true) →
      fails 5 0x80A c) ∧
    (st.phase = .stage 6 → (∃ l ∈ present, (getLink s.blk l).state = 1) → exec c s = .next s) ∧
    (st.phase = .stage 6 → (∀ l ∈ present, (getLink s.blk l).state ≠ 1) →
      (present.countP (linkUp s.blk) < min (min 24 st.minLinks) (linkCount s.blk) → fails 6 0x80B c) ∧
      (min (min 24 st.minLinks) (linkCount s.blk) ≤ present.countP (linkUp s.blk) → goes 7 (fun _ => True))) ∧
    (st.phase = .stage 7 → ∃ t, exec c s = .next t ∧ t.blk.start.phase = .run ∧
      t.blk.start.ready = true ∧ t.blk.host.updateSeq = 1 ∧
      ∀ f, f < 64 → (getPort s.blk f).state = 0 → (getPort s.blk f).dis = false → (getPort t.blk f).up = true) ∧
    ((∀ n, n < 8 → st.phase ≠ .stage n) → exec c s = .next s) ∧
    (∀ n, st.phase = .stage n → fails n 0x80C .stageTimeout) ∧
    ((∀ n, st.phase ≠ .stage n) → exec .stageTimeout s = .next s)) ∧
  (∀ s : State, let st := s.blk.start
    let takes := st.phase = .stage 2 ∧ st.straps.boot = 0 ∧ st.imageLen = none
    (st.phase ≠ .reset → exec .startLock s = becomes s { s.blk with start := { st with lock := true } }) ∧
    (st.phase = .reset → exec .startLock s = .next s) ∧
    (∀ p, st.phase = .stage 0 → bit (pllNeeded s.blk) p = true → p < 11 →
      ∃ t, exec (.pllLock p) s = .next t ∧ t.blk.start.pll.getLsbD p = true ∧
        ∀ q, q ≠ p → t.blk.start.pll.getLsbD q = st.pll.getLsbD q) ∧
    (∀ p, st.phase ≠ .stage 0 ∨ bit (pllNeeded s.blk) p = false → exec (.pllLock p) s = .next s) ∧
    (∀ w : BitVec 32, takes →
      exec (.bootPort w) s =
        becomes s { s.blk with start := { st with image := st.image ++ leBytes 4 w.toNat } } ∧
      exec (.bootGo w) s =
        becomes s { s.blk with start := { st with imageLen := some (fld w.toNat 22 0) } }) ∧
    (∀ w : BitVec 32, ¬takes → exec (.bootPort w) s = .next s ∧ exec (.bootGo w) s = .next s))

/-- At the end of an interval outside reset and Hold, the step that each enabled, ungated Current is to take is the
least of its MAX, the budget ceiling, its limit ceiling and its thermal ceiling as they stand after the interval, and
at least 1,200 MHz; a Current that is gated or disabled, and every Current in Hold, keeps its ceilings and takes no
step. The thermal ceiling falls by 100 MHz above 1,200 while a governing sensor reads 100 °C or more, and rises by 100
MHz up to 3,600 with all of them below 97 °C. Without a limit the limit ceiling is 3,600. The interval's sums start
afresh. A glide ends at the step. An estimate shows as the latest of its domain. A fall of PWR_DROOP_N outside reset
halves the clocks and counts once; in reset only the pin shows, and no interval, estimate or reading acts. A sensor in
range is valid with its reading; one out of range fails and stays failed. (R384, R386, R387, R388, R389, R390, R392,
R394, R395, R399) -/
def Obligations.PowerIntervalSteps : Prop :=
  (∀ (s : State) (budget : BitVec 16), s.blk.start.phase ≠ .reset →
    ∃ t, exec (.powerInterval budget) s = .next t ∧ t.blk.power.budgetPin = budget.toNat ∧
      t.blk.power.estSum = [] ∧ t.blk.power.estCount = [] ∧
      (s.blk.power.hold = true → t.blk.power.gale = s.blk.power.gale ∧ t.blk.power.budgetCeil = s.blk.power.budgetCeil) ∧
      (s.blk.power.hold = false → ∀ n, n < 8 → let g := getGale s.blk n
        let y := getGale t.blk n
        (curUsable s.blk n = false → y = g) ∧
        (curUsable s.blk n = true →
          y.target = max 1200 (min y.max (min t.blk.power.budgetCeil (min y.limitCeil y.thermCeil))) ∧
          y.cur = g.cur ∧ y.max = g.max ∧ (g.limit = 0 → y.limitCeil = 3600) ∧
          ((hotSensor s.blk n).isSome = true → 1200 < g.thermCeil → y.thermCeil = g.thermCeil - 100) ∧
          ((∀ k, k < 32 → governs k n = true → ∀ v, reading s.blk k = some v → v < 4 * (97 + 64)) →
            y.thermCeil = min 3600 (g.thermCeil + 100))))) ∧
  (∀ (s : State) (n : Nat), n < 8 →
    exec (.glideEnd n) s = becomes s (putGale s.blk n { getGale s.blk n with cur := (getGale s.blk n).target })) ∧
  (∀ (s : State) (budget amps : BitVec 16) (d : Nat) (k : Nat) (v : BitVec 11) (ok : Bool), s.blk.start.phase = .reset →
    exec (.powerInterval budget) s = .next s ∧ exec (.estimateTick d amps) s = .next s ∧
    exec (.sensorRead k v ok) s = .next s ∧
    (s.blk.power.droopPin = false →
      exec .droop s = becomes s { s.blk with power := { s.blk.power with droopPin := true } })) ∧
  (∀ (s : State) (d : Nat) (amps : BitVec 16), d < 13 → s.blk.start.phase ≠ .reset →
    ∃ t, exec (.estimateTick d amps) s = .next t ∧ Table.get 0 t.blk.power.est d = amps.toNat ∧
      t.blk.power.estDom = some d ∧ t.blk.power.estValid = true ∧ (∀ k, k ≠ d → Table.get 0 t.blk.power.est k = Table.get 0 s.blk.power.est k)) ∧
  (∀ s : State, (s.blk.power.droopPin = true → exec .droop s = .next s) ∧
    (s.blk.power.droopPin = false → s.blk.start.phase ≠ .reset → ∃ t, exec .droop s = .next t ∧
      t.blk.power.droopPin = true ∧ t.blk.power.droop = 1 ∧ t.blk.power.droops = min 0xFFFF (s.blk.power.droops + 1) ∧
      t.blk.power.gale = s.blk.power.gale) ∧
    (∃ t, exec .droopRestoreStage s = .next t ∧ t.blk.power.droopPin = false ∧ t.blk.power.gale = s.blk.power.gale ∧
      t.blk.power.droop = (if s.blk.power.droop = 0 ∨ 4 ≤ s.blk.power.droop then 0 else s.blk.power.droop + 1))) ∧
  (∀ (s : State) (k : Nat) (v : BitVec 11) (ok : Bool), k < 32 → s.blk.start.phase ≠ .reset →
    (∀ u, Table.find s.blk.power.temps k = some (false, u) → exec (.sensorRead k v ok) s = .next s) ∧
    ((∀ u, Table.find s.blk.power.temps k ≠ some (false, u)) → ∃ t, exec (.sensorRead k v ok) s = .next t ∧
      (ok = true → 96 ≤ v.toNat → v.toNat ≤ 856 → reading t.blk k = some v.toNat ∧ t.blk.evt = s.blk.evt) ∧
      (ok = false ∨ v.toNat < 96 ∨ 856 < v.toNat → reading t.blk k = none ∧
        t.blk.evt = (report s.blk (0xC100 + k) 0x825 0).evt)))

/-- A valid sensor at 110 °C or more puts the block in Hold: HOLDS counts, the Vanes are off, every UP link goes to
HOLD with PAUSE; below it nothing happens. In Hold nothing is changed by the rows that complete waits, take up, load,
swap, add and drain in an Eddy, that move Gate messages, take, release, read, land and end the work of codecs, grant,
publish, count, translate and end streams, apply, arm, zero and scrub in Lee, apply a fabric GSIG or power Vanes, nor
by MOV, TLOAD, VADD and GSIG. Hold ends once no valid sensor reads 100 °C or more: each usable Current runs at 1,200
MHz with its thermal ceiling there, a link that Hold alone kept is UP, and the Vanes of a running job are turned on
again. current_gate and current_ungate are refused with 0x824 while a job runs, in Hold, in Calm mode, for C0 and for
a Current that is not enabled; a gate without retention also while a persistent Region lies there. A gate of a gated
Current, and an ungate of one in use, ends with status 0. Any other accepted gate takes the Current out of use and an
ungate brings it back, each with UPDATE_SEQ one higher; the ungate of a Current not retained makes every byte of its
Lee 0 and changes no other byte. power_budget from 1 to 780 W sets the budget and clears every limit; other values are
refused with 0x838. CLR_COUNTS clears DROOPS and HOLDS. (R389, R396, R397, R398, R399, R400, R432, R242) -/
def Obligations.HoldGatingAndBudget : Prop :=
  (∀ (s : State) (k v : Nat), reading s.blk k = some v → s.blk.power.hold = false → s.blk.start.phase ≠ .reset →
    (v < 696 → exec (.thermalHold k) s = .next s) ∧
    (696 ≤ v → ∃ t, exec (.thermalHold k) s = .next t ∧ t.blk.power.hold = true ∧ t.blk.power.vaneOn = [] ∧
      t.blk.power.holds = min 0xFFFF (s.blk.power.holds + 1) ∧ t.blk.lee = s.blk.lee ∧
      ∀ l, linkPresent s.blk l = true → (getLink s.blk l).state = 2 →
        (getLink t.blk l).state = 3 ∧ (getLink t.blk l).pause = true)) ∧
  (∀ (s : State) (k : Nat), reading s.blk k = none ∨ s.blk.power.hold = true ∨ s.blk.start.phase = .reset →
    exec (.thermalHold k) s = .next s) ∧
  (∀ (s : State) (e v g k u c sid f id l : Nat) (m : BitVec 8) (i : Instr), s.blk.power.hold = true →
    i ∈ [.movComplete e, .fenceComplete e, .gateSignalArrival g k, .gateWaitArrival g k, .gateWake e, .unitTakeUp e c,
      .tileLoadComplete e v, .tswapEffect e, .rowEntry e m, .drainSlotRead e, .codJobAccept u, .furlBlockRelease u,
      .unfurlHeader u, .codJobEnd u, .catchQueueRead l, .segLand l, .passEnd l, .stashFlitTake u, .streamGrant k,
      .ringPublish sid, .tteTick k, .deadlineMiss sid, .pageTranslationDone sid, .streamFault sid, .transferComplete sid,
      .pendingActivate sid, .atomicApply f, .contributionEnd f, .reduceArm id, .zeroEnd id, .scrubTick e v,
      .fabricGsig f, .vanePowerStep k, .mov e, .tload e, .vadd e, .gsig e] → exec i s = .next s) ∧
  (∀ s : State, s.blk.power.hold = false → exec .holdExit s = .next s) ∧
  (∀ s : State, s.blk.power.hold = true →
    ((∃ k v, k < 32 ∧ reading s.blk k = some v ∧ 656 ≤ v) → exec .holdExit s = .next s) ∧
    ((∀ k v, k < 32 → reading s.blk k = some v → v < 656) → ∃ t, exec .holdExit s = .next t ∧ t.blk.power.hold = false ∧
      t.blk.lee = s.blk.lee ∧ (∀ n, n < 8 → curUsable s.blk n = true → (getGale t.blk n).cur = 1200 ∧
        (getGale t.blk n).target = 1200 ∧ (getGale t.blk n).thermCeil = 1200) ∧
      (∀ l, linkPresent s.blk l = true → (getLink s.blk l).state = 3 → (getLink s.blk l).retiring = none →
        (∀ i, (getLane (getLink s.blk l) i).qualified = 0) → (getLink t.blk l).state = 2) ∧
      (s.blk.job.running = true → s.blk.job.stopped = false →
        t.blk.power.vaneQ = (queueVanes s.blk s.blk.job.eddies).power.vaneQ))) ∧
  (∀ (s : State) (src : Nat) (e : BitVec 512), let n := fld (cmdArg e 0) 2 0
    let bad := s.blk.job.running = true ∨ s.blk.power.hold = true ∨ inCalm s.blk = true ∨ n = 0 ∨ curEnabled s.blk n = false
    (commandIn s.blk src 0x17 e →
      (bad ∨ (bit (cmdArg e 0) 8 = false ∧ persistentIn s.blk n = true) →
        exec (.currentGate src) s = answered s s.blk src 0x824) ∧
      (¬bad → (bit (cmdArg e 0) 8 = true ∨ persistentIn s.blk n = false) → curUsable s.blk n = false →
        exec (.currentGate src) s = answered s s.blk src 0) ∧
      (¬bad → (bit (cmdArg e 0) 8 = true ∨ persistentIn s.blk n = false) → curUsable s.blk n = true →
        ∃ t, exec (.currentGate src) s = .next t ∧ curUsable t.blk n = false ∧
          (∀ m, m ≠ n → curUsable t.blk m = curUsable s.blk m) ∧ t.blk.host.updateSeq = s.blk.host.updateSeq + 1 ∧
          t.blk.lee = s.blk.lee)) ∧
    (commandIn s.blk src 0x18 e →
      (bad → exec (.currentUngate src) s = answered s s.blk src 0x824) ∧
      (¬bad → Table.get 0 s.blk.power.gated n = 0 → exec (.currentUngate src) s = answered s s.blk src 0) ∧
      (¬bad → Table.get 0 s.blk.power.gated n ≠ 0 →
        ∃ t, exec (.currentUngate src) s = .next t ∧ curUsable t.blk n = true ∧
          t.blk.host.updateSeq = s.blk.host.updateSeq + 1 ∧
          ∀ a, byteAt t.blk a = if Table.get 0 s.blk.power.gated n = 2 ∧ a / 2 ^ 31 = n then 0 else byteAt s.blk a))) ∧
  (∀ (s : State) (src : Nat) (e : BitVec 512), commandIn s.blk src 0x16 e → let w := fld (cmdArg e 0) 9 0
    (w = 0 ∨ 780 < w → exec (.powerBudget src) s = answered s s.blk src 0x838) ∧
    (1 ≤ w → w ≤ 780 → ∃ t, exec (.powerBudget src) s = .next t ∧ t.blk.power.budgetSw = 2 * w ∧
      (∀ n, (getGale t.blk n).limit = 0 ∧ (getGale t.blk n).max = (getGale s.blk n).max) ∧
      Table.find t.blk.host.running src = none)) ∧
  (∀ s : State, exec .pwrCtrlClrCounts s =
    becomes s { s.blk with power := { s.blk.power with droops := 0, holds := 0 } })

/-- lifecycle_prod, lifecycle_rma and lifecycle_scrap are refused with 0x740, blowing nothing, while a job runs, and
from a state that R403 does not pair with the new one; lifecycle_rma also without a token of an unrevoked root key, or
of an owned part in PROD without the owner's grant; lifecycle_scrap also from PROD and RMA without a grant. An
endpoint that does not give 96 bytes that are read whole is answered with 0x838. An accepted one blows fuses of the
new state's group alone; it ends with 0 when five read blown and with 0x741 otherwise; where every try succeeds, the
fuses give the new state, or a higher one that they gave before, while the state in force stays. lifecycle_prod with
an owner key then also enrols its SHA-384. lifecycle_scrap clears every key slot and W1 at once, and takes the links
that encrypt with one DOWN. root_revoke blows fuse i, unless key i signed the running firmware or none would be left.
(R402, R403, R408, R411, R421) -/
def Obligations.LifecycleAndRootFuses : Prop :=
  ∀ (s : State) (src : Nat) (e : BitVec 512) (blows : BitVec 8),
    let b := s.blk
    let group (g : Nat) (z : Fuses) := (∀ i, i / 8 ≠ g → z.lifecycle.getLsbD i = s.fuses.lifecycle.getLsbD i) ∧
      stayBlown s.fuses z ∧ z.rollback = s.fuses.rollback ∧ z.revoked = s.fuses.revoked ∧ z.devid = s.fuses.devid
    let ended (g : Nat) (z : Fuses) := if 5 ≤ groupCount z g then 0 else 0x741
    (commandIn b src 0x19 e →
      let bad := b.job.running = true ∨ b.sec.state ≠ 1
      (bad → exec (.lifecycleProd src blows) s = answered s b src 0x740) ∧
      (¬bad → bit (cmdArg e 0) 0 = true → bytes96 b (cmdArg e 1) = none →
        exec (.lifecycleProd src blows) s = answered s b src 0x838) ∧
      (¬bad → bit (cmdArg e 0) 0 = false → ∃ z, group 1 z ∧ z.ownerHash = s.fuses.ownerHash ∧ z.owner = s.fuses.owner ∧
        (blows = 0xFF → lifecycleOf z = max 2 (lifecycleOf s.fuses)) ∧
        exec (.lifecycleProd src blows) s = .next { s with fuses := z, blk := finishCmd b src (ended 1 z) 0 0 }) ∧
      (∀ key, ¬bad → bit (cmdArg e 0) 0 = true → bytes96 b (cmdArg e 1) = some key → ∃ z, group 1 z ∧
        (5 ≤ groupCount z 1 → z.owner = true ∧ z.ownerHash = s.fuses.ownerHash ||| BitVec.ofNat 384 (sha384 key)) ∧
        (groupCount z 1 < 5 → z.owner = s.fuses.owner ∧ z.ownerHash = s.fuses.ownerHash) ∧
        (blows = 0xFF → lifecycleOf z = max 2 (lifecycleOf s.fuses)) ∧
        exec (.lifecycleProd src blows) s = .next { s with fuses := z, blk := finishCmd b src (ended 1 z) 0 0 })) ∧
    (commandIn b src 0x1A e →
      let bad := b.job.running = true ∨ (b.sec.state ≠ 1 ∧ b.sec.state ≠ 2)
      (bad → exec (.lifecycleRma src blows) s = answered s b src 0x740) ∧
      (¬bad → bytes96 b (cmdArg e 1) = none → exec (.lifecycleRma src blows) s = answered s b src 0x838) ∧
      (∀ token, ¬bad → bytes96 b (cmdArg e 1) = some token → ∃ z,
        (if tokenOk s.fuses token = true ∧ (b.sec.state = 2 → s.fuses.owner = true → b.sec.ownerGrant = true) then
          group 2 z ∧ z.ownerHash = s.fuses.ownerHash ∧ z.owner = s.fuses.owner ∧ (blows = 0xFF → lifecycleOf z = max 3 (lifecycleOf s.fuses)) ∧
          exec (.lifecycleRma src blows) s = .next { s with fuses := z, blk := finishCmd b src (ended 2 z) 0 0 }
        else z = s.fuses ∧ exec (.lifecycleRma src blows) s = answered s b src 0x740))) ∧
    (commandIn b src 0x1B e →
      let bad := b.job.running = true ∨ 4 ≤ b.sec.state ∨
        (2 ≤ b.sec.state ∧ b.sec.ownerGrant = false ∧ b.sec.eutricGrant = false)
      (bad → exec (.lifecycleScrap src blows) s = answered s b src 0x740) ∧
      (¬bad → ∃ t, exec (.lifecycleScrap src blows) s = .next t ∧ group 3 t.fuses ∧ t.fuses.owner = s.fuses.owner ∧
        (blows = 0xFF → lifecycleOf t.fuses = 4) ∧ t.blk.sec.slots = [] ∧ t.blk.sec.w1 = none ∧
        t.blk.sec.state = b.sec.state ∧ Table.find t.blk.host.running src = none ∧
        ∀ l, linkPresent b l = true → (getLink b l).encTx = true ∨ (getLink b l).encRx = true →
          (getLink t.blk l).state = 0)) ∧
    (commandIn b src 0x1D e → let i := fld (cmdArg e 0) 1 0
      let r := s.fuses.revoked ||| BitVec.ofNat 4 (2 ^ i)
      let bad := (b.start.fw = true ∧ b.start.fwRoot = i) ∨ r = 0xF
      (bad → exec (.rootRevoke src) s = answered s b src 0x740) ∧
      (¬bad → exec (.rootRevoke src) s =
        .next { s with fuses := { s.fuses with revoked := r }, blk := finishCmd b src 0 0 0 }))

/-- The count is the number of the 64 rollback fuses that are blown. rollback_advance with a target t above the SVN of
the running firmware or below the count is answered with 0x742 and blows nothing. With another target of up to 64 it
leaves exactly t of the 64 fuses blown, every fuse blown before still blown and every other fuse as it was, and
answers 0 with nothing else changed. An image with an SVN below the count that the fuses then give is refused in S2;
with any other SVN the rollback fuses do not change what S2 answers. (R407) -/
def Obligations.RollbackAdvanceReachesTarget : Prop :=
  (∀ z : Fuses, rollbackCount z = (List.range 64).countP (fun i => z.rollback.getLsbD i) ∧ rollbackCount z ≤ 64) ∧
  (∀ (s : State) (src : Nat) (e : BitVec 512), commandIn s.blk src 0x1C e → let t := fld (cmdArg e 0) 6 0
    (s.blk.start.fwSvn < t ∨ t < rollbackCount s.fuses →
      exec (.rollbackAdvance src) s = answered s s.blk src 0x742) ∧
    (t ≤ s.blk.start.fwSvn → rollbackCount s.fuses ≤ t → t ≤ 64 → ∃ r, rollbackCount { s.fuses with rollback := r } = t ∧
      (∀ i, s.fuses.rollback.getLsbD i = true → r.getLsbD i = true) ∧
      exec (.rollbackAdvance src) s =
        .next { s with fuses := { s.fuses with rollback := r }, blk := finishCmd s.blk src 0 0 0 })) ∧
  (∀ (z : Fuses) (state len : Nat) (l : List Byte),
    (imgField l 6 1 < rollbackCount z → (imageRefusal z state l len).isSome = true) ∧
    (rollbackCount z ≤ imgField l 6 1 → imageRefusal z state l len = imageRefusal { z with rollback := 0 } state l len))

/-- key_load to W1 under W1, or to no slot, is refused with 0x838; to a slot in use with 0x720; under an empty W1 or
with a blob that does not unwrap with 0x721; otherwise it puts the unwrapped key with its salt into the slot, or into
W1. A commit puts the register words into a free slot in BLANK and DEV, and does nothing in other states, to a slot in
use or to no slot. context_assign sets the tenant of a context that is not held, else 0x730. A GO is refused: 0x713
after eight failures, uncounted, else counted 0x714 while one is in progress, 0x711 for a level not allowed, 0x712 for
a stale nonce; else it waits; each draws a fresh nonce. A request that fails verification counts; a verified Observe,
or any level in BLANK or DEV, sets the level. A verified Full in PROD or RMA stops a job with 0x715, waits in Hold and
while a stream, codec or Region is busy, and then empties Lee, the Slots and the keys and takes encrypting links DOWN.
NEW_NONCE, DROP and expiry do what they say. (R409, R410, R411, R412, R414, R415, R416, R417, R422) -/
def Obligations.KeysContextsAndDebug : Prop :=
  (∀ (s : State) (src : Nat) (e : BitVec 512), commandIn s.blk src 0x15 e →
    let b := s.blk
    let k := fld (cmdArg e 0) 4 0
    let wrap := bit (cmdArg e 0) 8
    (16 < k ∨ (k = 16 ∧ wrap = true) → exec (.keyLoad src) s = answered s b src 0x838) ∧
    (k < 16 → slotInUse b k = true → exec (.keyLoad src) s = answered s b src 0x720) ∧
    (k ≤ 16 → (k = 16 → wrap = false) → slotInUse b k = false →
      (wrap = true → b.sec.w1 = none → exec (.keyLoad src) s = answered s b src 0x721) ∧
      (∀ w, (if wrap then b.sec.w1 else some Config.deviceKey) = some w →
        match kwUnwrap (toNats (leBytes 32 w.toNat)) (blobOf e) with
        | none => exec (.keyLoad src) s = answered s b src 0x721
        | some key => let v := BitVec.ofNat 256 (leNat (ofNats key))
          exec (.keyLoad src) s = answered s (if k = 16 then { b with sec := { b.sec with w1 := some v } } else
            { b with sec := { b.sec with slots := Table.add b.sec.slots k (v, BitVec.ofNat 32 (cmdArg e 1)) } }) src 0))) ∧
  (∀ (s : State) (v : BitVec 32), let k := fld v.toNat 4 0
    (v.getLsbD 31 = false ∨ 2 ≤ s.blk.sec.state ∨ slotInUse s.blk k = true ∨ 16 < k →
      exec (.keyCommit v) s = .next s) ∧
    (v.getLsbD 31 = true → s.blk.sec.state < 2 → k < 16 → slotInUse s.blk k = false →
      exec (.keyCommit v) s = becomes s { s.blk with sec := { s.blk.sec with
        slots := Table.add s.blk.sec.slots k (keyWords s.blk k, keyReg s.blk k 8) } }) ∧
    (v.getLsbD 31 = true → s.blk.sec.state < 2 → k = 16 → slotInUse s.blk k = false →
      exec (.keyCommit v) s = becomes s { s.blk with sec := { s.blk.sec with w1 := some (keyWords s.blk 0) } })) ∧
  (∀ (s : State) (src : Nat) (e : BitVec 512), commandIn s.blk src 0x14 e → let c := fld (cmdArg e 0) 3 0
    let x := getCtx s.blk c
    (x.held = true → exec (.contextAssign src) s = answered s s.blk src 0x730) ∧
    (x.held = false → exec (.contextAssign src) s =
      answered s (putCtx s.blk c { x with tenant := some (fld (cmdArg e 0) 15 8) }) src 0)) ∧
  (∀ (s : State) (v : BitVec 32), let sec := s.blk.sec
    let level := fld v.toNat 9 8
    let allowed := (level = 1 ∨ level = 2) ∧ levelAllowed s.blk level (b2n (v.getLsbD 0)) = true
    (v.getLsbD 31 = false ∨ s.blk.start.phase = .reset → exec (.dbgReq v) s = .next s) ∧
    (v.getLsbD 31 = true → s.blk.start.phase ≠ .reset → ∃ t, exec (.dbgReq v) s = .next t ∧
      t.blk.sec.nonceFresh = true ∧ t.blk.sec.level = sec.level ∧ t.fuses = s.fuses ∧
      (let refused (code n : Nat) := t.blk.sec.last = code ∧ t.blk.sec.fails = n ∧ t.blk.sec.req = sec.req
       let more := min 255 (sec.fails + 1)
       (8 ≤ sec.fails → refused 0x713 sec.fails) ∧
       (sec.fails < 8 → dbgBusy s.blk = true → refused 0x714 more) ∧
       (sec.fails < 8 → dbgBusy s.blk = false → ¬allowed → refused 0x711 more) ∧
       (sec.fails < 8 → dbgBusy s.blk = false → allowed → sec.nonceFresh = false → refused 0x712 more) ∧
       (sec.fails < 8 → dbgBusy s.blk = false → allowed → sec.nonceFresh = true →
         t.blk.sec.fails = sec.fails ∧ dbgBusy t.blk = true)))) ∧
  (∀ s : State, s.blk.sec.req = none → exec .debugGrant s = .next s) ∧
  (∀ (s : State) (level key code : Nat), s.blk.sec.req = some (level, key, code) →
    (code ≠ 0 → s.blk.sec.grant = false → ∃ t, exec .debugGrant s = .next t ∧ t.blk.sec.last = code ∧
      t.blk.sec.fails = min 255 (s.blk.sec.fails + 1) ∧ t.blk.sec.req = none ∧ t.blk.sec.level = s.blk.sec.level) ∧
    (code = 0 → s.blk.sec.grant = false → (level = 2 → s.blk.sec.state ≠ 2 ∧ s.blk.sec.state ≠ 3) →
      ∃ t, exec .debugGrant s = .next t ∧ t.blk.sec.level = max level (freeLevel s.blk.sec.state s.blk.start.phase) ∧
        t.blk.sec.last = 0 ∧ dbgBusy t.blk = false ∧ t.blk.lee = s.blk.lee) ∧
    (code = 0 ∨ s.blk.sec.grant = true → level = 2 → s.blk.sec.state = 2 ∨ s.blk.sec.state = 3 →
      (s.blk.power.hold = true → ∃ t, exec .debugGrant s = .next t ∧ dbgBusy t.blk = true ∧
        t.blk.sec.level = s.blk.sec.level ∧ t.blk.lee = s.blk.lee) ∧
      (s.blk.power.hold = false → s.blk.job.running = true → ∃ t, exec .debugGrant s = .next t ∧ dbgBusy t.blk = true ∧
        t.blk.sec.level = s.blk.sec.level ∧ t.blk.job.stop = some (s.blk.job.stop.getD 0x715)) ∧
      (s.blk.power.hold = false → s.blk.job.running = false → unitsBusy s.blk = true ∨ regionsBusy s.blk = true →
        ∃ t, exec .debugGrant s = .next t ∧ dbgBusy t.blk = true ∧ t.blk.sec.level = s.blk.sec.level) ∧
      (s.blk.power.hold = false → s.blk.job.running = false → unitsBusy s.blk = false → regionsBusy s.blk = false →
        ∃ t, exec .debugGrant s = .next t ∧ dbgBusy t.blk = false ∧ t.blk.sec.level = 2 ∧ t.blk.sec.last = 0 ∧
          t.blk.lee.mem = [] ∧ t.blk.lee.regions = [] ∧ t.blk.sec.slots = [] ∧ t.blk.sec.w1 = none ∧
          (∀ l, linkPresent s.blk l = true → (getLink s.blk l).encTx = true ∨ (getLink s.blk l).encRx = true →
            (getLink t.blk l).state = 0) ∧
          ∀ e, (getEddy t.blk e).vanes = [] ∧ (getEddy t.blk e).slots = []))) ∧
  (∀ s : State, let free := freeLevel s.blk.sec.state s.blk.start.phase
    (s.blk.start.phase = .reset → exec .newNonce s = .next s) ∧
    (s.blk.start.phase ≠ .reset → ∃ t, exec .newNonce s = .next t ∧ t.blk.sec.nonceFresh = true ∧
      t.blk.sec.level = s.blk.sec.level ∧ t.blk.lee = s.blk.lee) ∧
    exec .dbgDrop s = becomes s { s.blk with sec := { s.blk.sec with
      level := free, ownerGrant := false, eutricGrant := false } } ∧
    exec .nonceExpiry s = becomes s { s.blk with sec := { s.blk.sec with nonceFresh := false } })

/-- A wrapper instruction that its row of R414 does not allow changes nothing; WS_BYPASS and WS_1687 only select the
path; WS_EXTEST, WS_CLAMP, WS_SAFE and WS_INTEST outside reset take every port and link DOWN; leaving WS_INTEST puts
the block in reset until RST_COLD_N. An access without WS_1687 or in reset, a DAP access or MBIST below Full and a
read instrument below Observe change nothing. At Full the DAP reads and writes a Lee granule, an instruction, a Slot
word and a register, and halts, lets go and steps an Eddy; MBIST without a job leaves Lee zero, and retires the bank
that it is told cannot be repaired. From Observe on TEMP, CNT, EVT, CAUSE, CAPS and FUSE read what they name. At every
level SEC reads and writes the debug registers. An access to what is not there, or to a gated Current through the DAP,
returns 0 and MGT_ERR. The numbering of the accesses and words is the model's (log 19). A fuse write without WS_1687,
below Full, in reset or while a job runs changes nothing; otherwise it blows only the fuses of its word and unblows
none; the lifecycle word blows the DEV group of a BLANK part. (R402, R414, R419, R420, R417) -/
def Obligations.TestAccessFollowsLevels : Prop :=
  (∀ (s : State) (i : BitVec 4), let n := i.toNat
    let ok := n = 0 ∨ n = 5 ∨ (n ≤ 3 ∧ 1 ≤ s.blk.sec.level ∧ s.blk.job.running = false) ∨ (n = 4 ∧ s.blk.sec.level = 2)
    (¬ok → exec (.wrapperInstruction i) s = .next s) ∧
    (n = 0 ∨ n = 5 → s.blk.start.wrapper ≠ 4 →
      exec (.wrapperInstruction i) s = becomes s { s.blk with start := { s.blk.start with wrapper := n } }) ∧
    (ok → n ≠ 4 → s.blk.start.wrapper = 4 → ∃ t, exec (.wrapperInstruction i) s = .next t ∧
      t.blk.start.phase = .reset ∧ t.blk.start.scanned = true ∧ t.blk.start.wrapper = n ∧ t.fuses = s.fuses) ∧
    (ok → 1 ≤ n → n ≤ 4 → n = 4 ∨ s.blk.start.wrapper ≠ 4 → s.blk.start.phase ≠ .reset →
      ∃ t, exec (.wrapperInstruction i) s = .next t ∧ t.blk.start.wrapper = n ∧ t.blk.start.phase = s.blk.start.phase ∧
        (∀ f, f < 64 → (getPort t.blk f).state ≠ 1 ∧ (getPort t.blk f).up = false) ∧
        ∀ l, linkPresent s.blk l = true → (getLink t.blk l).state = 0)) ∧
  (∀ (s : State) (op target : Nat) (data : BitVec 128), let b := s.blk
    let e := target / 16384
    let f := target / 256
    let k := target / 16 % 16
    let shows (c : Block) (n : Nat) : Host.Outcome State Fault Refusal :=
      becomes s { c with sec := { c.sec with dapData := BitVec.ofNat 128 n } }
    let bad : Host.Outcome State Fault Refusal :=
      becomes s { b with sec := { b.sec with dapData := 0 }, host := { b.host with err := true } }
    let sec := 0x300060 ≤ target ∧ target < 0x3001E0 ∧ target % 4 = 0
    (17 < op ∨ b.start.wrapper ≠ 5 ∨ b.start.phase = .reset ∨ (op ≤ 9 ∧ b.sec.level ≠ 2) ∨
      (op = 17 ∧ b.sec.level ≠ 2) ∨ (10 ≤ op ∧ op ≤ 15 ∧ b.sec.level = 0) → exec (.dapAccess op target data) s = .next s) ∧
    (b.start.wrapper = 5 → b.start.phase ≠ .reset → b.sec.level = 2 →
      (dapLee b target = true → exec (.dapAccess 1 target data) s =
        becomes s { b with lee := leePut b.lee target data false }) ∧
      (dapLee b target = true → Table.find b.lee.err target = none →
        exec (.dapAccess 0 target data) s = shows b (memGran b.lee.mem target).toNat) ∧
      (dapLee b target = true → exec (.dapAccess 0 target data) s = shows (leeRead b target).2.2 (leeRead b target).1.toNat) ∧
      (∀ op, op < 2 → dapLee b target = false → exec (.dapAccess op target data) s = bad) ∧
      (e < 128 → curUsable b (e / 16) = true → exec (.dapAccess 2 target data) s =
        shows b (Table.get haltWord (getEddy b e).imem (target % 16384)).toNat) ∧
      (e < 128 → curUsable b (e / 16) = true →
        ∃ t, exec (.dapAccess 3 target data) s = .next t ∧ t.blk.lee = b.lee ∧ ∀ x i,
          Table.get haltWord (getEddy t.blk x).imem i =
            (if x = e ∧ i = target % 16384 then data else Table.get haltWord (getEddy b x).imem i)) ∧
      (∀ op, op = 2 ∨ op = 3 → ¬(e < 128 ∧ curUsable b (e / 16) = true) → exec (.dapAccess op target data) s = bad) ∧
      (f < 128 → curUsable b (f / 16) = true → exec (.dapAccess 4 target data) s =
        shows b (slotWord (getSlot (getEddy b f) k) (target % 16))) ∧
      (f < 128 → curUsable b (f / 16) = true → ∃ t, exec (.dapAccess 5 target data) s = .next t ∧
        slotWord (getSlot (getEddy t.blk f) k) (target % 16) = data.toNat ∧
        (∀ w, w < 16 → w ≠ target % 16 →
          slotWord (getSlot (getEddy t.blk f) k) w = slotWord (getSlot (getEddy b f) k) w) ∧
        ∀ x i, x ≠ f ∨ i ≠ k → getSlot (getEddy t.blk x) i = getSlot (getEddy b x) i) ∧
      (∀ op, op = 4 ∨ op = 5 → ¬(f < 128 ∧ curUsable b (f / 16) = true) → exec (.dapAccess op target data) s = bad) ∧
      (dapReaches b target = true →
        exec (.dapAccess 6 target data) s = shows (regRead s.fuses b target).2 (regRead s.fuses b target).1 ∧
        (target < 2 ^ 32 → exec (.dapAccess 7 target data) s =
          becomes s (regWrite s.fuses b (BitVec.ofNat 32 target) (data.setWidth 32)))) ∧
      (∀ op, op = 6 ∨ op = 7 → target % 4 ≠ 0 ∨ winOf target = none ∨
        (∃ n o, winOf target = some (.cur n, o) ∧ Table.get 0 b.power.gated n ≠ 0) → exec (.dapAccess op target data) s = bad) ∧
      (target < 128 → curUsable b (target / 16) = true → exec (.dapAccess 8 target data) s =
          becomes s (updEddy b target (fun x => { x with dapHalt := data != 0, dapStep := false })) ∧
        exec (.dapAccess 9 target data) s =
          becomes s (updEddy b target (fun x => { x with dapHalt := false, dapStep := true }))) ∧
      (∀ op, op = 8 ∨ op = 9 → ¬(target < 128 ∧ curUsable b (target / 16) = true) →
        exec (.dapAccess op target data) s = bad) ∧
      (b.job.running = false → data.getLsbD 0 = false → exec (.dapAccess 17 target data) s =
        becomes s { b with lee := { b.lee with mem := [], poison := [], err := [] } }) ∧
      (b.job.running = false → data.getLsbD 0 = true → target < 6144 → ∃ t, exec (.dapAccess 17 target data) s = .next t ∧
        (getBank t.blk (target / 48) (target % 48)).state = 2 ∧ t.blk.lee.mem = []) ∧
      (b.job.running = true → exec (.dapAccess 17 target data) s = .next s)) ∧
    (b.start.wrapper = 5 → b.start.phase ≠ .reset → 1 ≤ b.sec.level →
      exec (.dapAccess 10 target data) s = shows b (if target < 32 then tempWord b target else 0) ∧
      (isCounter target = true → target % 4 = 0 → exec (.dapAccess 11 target data) s =
        shows (regRead s.fuses b target).2 (regRead s.fuses b target).1) ∧
      (isCounter target = false ∨ target % 4 ≠ 0 → exec (.dapAccess 11 target data) s = bad) ∧
      exec (.dapAccess 12 target data) s = shows b (evtGranule b target) ∧
      exec (.dapAccess 13 target data) s = shows b (causeGranule b target) ∧
      exec (.dapAccess 14 target data) s = shows b (leNat (((capsRecord b).drop (16 * target)).take 16)) ∧
      exec (.dapAccess 15 target data) s = shows b (fuseWord s.fuses target)) ∧
    (b.start.wrapper = 5 → b.start.phase ≠ .reset →
      (sec ∧ data.getLsbD 32 = true → exec (.dapAccess 16 target data) s =
        becomes s (regWrite s.fuses b (BitVec.ofNat 32 target) (data.setWidth 32))) ∧
      (sec ∧ data.getLsbD 32 = false → exec (.dapAccess 16 target data) s =
        shows (regRead s.fuses b target).2 (regRead s.fuses b target).1) ∧
      (¬sec → exec (.dapAccess 16 target data) s = bad))) ∧
  (∀ (s : State) (word : Nat) (v : BitVec 32) (blows : BitVec 8), let b := s.blk
    (b.start.wrapper ≠ 5 ∨ b.start.phase = .reset ∨ b.sec.level ≠ 2 ∨ b.job.running = true →
      exec (.fuseWrite word v blows) s = .next s) ∧
    (b.start.wrapper = 5 → b.start.phase ≠ .reset → b.sec.level = 2 → b.job.running = false →
      ∃ z, exec (.fuseWrite word v blows) s = .next { s with fuses := z } ∧ stayBlown s.fuses z ∧
        z.ownerHash = s.fuses.ownerHash ∧ (7 ≤ word → z = s.fuses) ∧
        (word ≠ 0 → z.lifecycle = s.fuses.lifecycle) ∧
        (word = 0 → v.getLsbD 0 = true → b.sec.state = 0 → blows = 0xFF → 5 ≤ groupCount z 0) ∧
        (word = 1 → fuseWord z 1 = fuseWord s.fuses 1 ||| v.toNat % 16) ∧
        (word = 2 ∨ word = 3 ∨ word = 4 ∨ word = 5 → ∀ w, w < 7 → fuseWord z w =
          (if w = word then fuseWord s.fuses w ||| v.toNat else fuseWord s.fuses w)) ∧
        (word = 6 → z.owner = (s.fuses.owner || v.getLsbD 0))))

/-- region_alloc with an absent Current or a bad size is refused with 0x838, a REDUCE Region without a count with
0x604, with no free ID with 0x603, and with 0x601 when no base holds the bytes within backed Lee that no Region holds;
else the Region lies at such a base (the lowest: the model's choice, log 22) under the lowest free ID, unheld, and a
REDUCE header is not ARMED with ARMWORD the count. region_free of a busy Region is refused with 0x602; without
zeroization the Region is gone, else its zeroing starts. region_zero outside the Region or off a granule is refused
with 0x838, else starts; a reduction header is skipped. reduce_arm of another kind is refused with 0x838, else the arm
word goes to the bank behind those before it, and the command waits for the bank's check. caps writes the 256 bytes of
the record and no other byte. gate_signal of 0, or of a Gate that no job holds or a barrier uses, is refused with
0x838, else adds its count. (R35, R36, R38, R44, R57, R88, R226, R238, R239, R242, R413, R432) -/
def Obligations.RegionGateAndCapsCommands : Prop :=
  (∀ (s : State) (src : Nat) (e : BitVec 512), commandIn s.blk src 0x02 e →
    let b := s.blk
    let a := cmdArg e 0
    let n := fld a 2 0
    let size := cmdArg e 1
    let reduce := fld a 5 4 = 1
    let bad := curUsable b n = false ∨ size % 16 ≠ 0 ∨ size < 16 ∨ (reduce ∧ size < 64) ∨ leeBytesOf b n < size
    let fits (base : Nat) := fitsAt (backedRuns b n) (takenRuns b n) size base = true
    let noId := ∀ i, 1 ≤ i → i ≤ 4095 → (getRegion b i).isSome = true
    let noCount := reduce ∧ fld (cmdArg e 2) 15 0 = 0
    (bad → exec (.regionAlloc src) s = answered s b src 0x838) ∧
    (¬bad → noCount → exec (.regionAlloc src) s = answered s b src 0x604) ∧
    (¬bad → ¬noCount → noId → exec (.regionAlloc src) s = answered s b src 0x603) ∧
    (¬bad → ¬noCount → ¬noId → (∀ base, ¬fits base) → exec (.regionAlloc src) s = answered s b src 0x601) ∧
    (¬bad → ¬noCount → ¬noId → (∃ base, fits base) → ∃ t id r, exec (.regionAlloc src) s = .next t ∧
      1 ≤ id ∧ id ≤ 4095 ∧ getRegion b id = none ∧ (∀ i, 1 ≤ i → i < id → (getRegion b i).isSome = true) ∧
      getRegion t.blk id = some r ∧ (∀ i, i ≠ id → getRegion t.blk i = getRegion b i) ∧
      r.cur = n ∧ r.size = size ∧ fits r.base ∧ (∀ base, fits base → r.base ≤ base) ∧ r.kind = kindOf (fld a 5 4) ∧
      r.persistent = bit a 8 ∧ (bit a 8 = true → r.tenant = fld a 23 16) ∧ r.held = false ∧
      t.blk.host = (finishCmd b src 0 0 id).host ∧ (¬reduce → t.blk.lee.mem = b.lee.mem) ∧
      (reduce → redStatus t.blk r = 0 ∧ (armword t.blk r).toNat = fld (cmdArg e 2) 15 0))) ∧
  (∀ (s : State) (src : Nat) (e : BitVec 512), commandIn s.blk src 0x03 e → let id := fld (cmdArg e 0) 11 0
    (namedRegion s.blk id = none → exec (.regionFree src) s = answered s s.blk src 0x838) ∧
    (∀ r, namedRegion s.blk id = some r →
      (regionBusy s.blk id r = true → exec (.regionFree src) s = answered s s.blk src 0x602) ∧
      (regionBusy s.blk id r = false → s.blk.sec.zeroize = 0 → ∃ t, exec (.regionFree src) s = .next t ∧
        getRegion t.blk id = none ∧ (∀ i, i ≠ id → getRegion t.blk i = getRegion s.blk i) ∧
        t.blk.lee.mem = s.blk.lee.mem ∧ t.blk.host = (finishCmd s.blk src 0 0 0).host) ∧
      (regionBusy s.blk id r = false → s.blk.sec.zeroize ≠ 0 → exec (.regionFree src) s =
        becomes s (startCmd (putRegion s.blk id { r with zero := .free (some src), held := false }) src)))) ∧
  (∀ (s : State) (src : Nat) (e : BitVec 512), commandIn s.blk src 0x04 e → let id := fld (cmdArg e 0) 11 0
    let off := cmdArg e 1
    let n := cmdArg e 2
    (namedRegion s.blk id = none → exec (.regionZero src) s = answered s s.blk src 0x838) ∧
    (∀ r, namedRegion s.blk id = some r → let bad := off % 16 ≠ 0 ∨ n % 16 ≠ 0 ∨ r.size < off + n
      let lo := if r.kind = .reduce then max 64 off else off
      (bad → exec (.regionZero src) s = answered s s.blk src 0x838) ∧
      (¬bad → regionBusy s.blk id r = true → exec (.regionZero src) s = answered s s.blk src 0x602) ∧
      (¬bad → regionBusy s.blk id r = false → exec (.regionZero src) s =
        becomes s (startCmd (putRegion s.blk id { r with zero := .host src lo (off + n - lo) }) src)))) ∧
  (∀ (s : State) (src : Nat) (e : BitVec 512), commandIn s.blk src 0x05 e → let id := fld (cmdArg e 0) 11 0
    (namedRegion s.blk id = none → exec (.reduceArmCommand src) s = answered s s.blk src 0x838) ∧
    (∀ r, namedRegion s.blk id = some r →
      (r.kind ≠ .reduce → exec (.reduceArmCommand src) s = answered s s.blk src 0x838) ∧
      (r.kind = .reduce → exec (.reduceArmCommand src) s = becomes s (startCmd (putRegion s.blk id
        { r with armReqs := r.armReqs ++ [⟨BitVec.ofNat 64 (cmdArg e 1), false, .host src⟩] }) src)))) ∧
  (∀ (s : State) (src : Nat) (e : BitVec 512), commandIn s.blk src 0x01 e →
    (leeEp s.blk true (cmdArg e 0) 256 = none → exec (.caps src) s = answered s s.blk src 0x838) ∧
    (∀ r a, leeEp s.blk true (cmdArg e 0) 256 = some (r, a) → s.blk.lee.err = [] →
      ∃ t, exec (.caps src) s = .next t ∧ (capsRecord s.blk).length = 256 ∧
        t.blk.host = (finishCmd s.blk src 0 0 s.blk.host.updateSeq.toNat).host ∧
        (∀ i, i < 256 → byteAt t.blk (a + i) = (capsRecord s.blk).getD i 0) ∧
        ∀ k, k < a ∨ a + 256 ≤ k → byteAt t.blk k = byteAt s.blk k)) ∧
  (∀ (s : State) (src : Nat) (e : BitVec 512), commandIn s.blk src 0x0A e → let g := fld (cmdArg e 0) 12 0
    let n := fld (cmdArg e 0) 31 16
    let k := getGate s.blk g
    let bad := n = 0 ∨ curUsable s.blk (g / 1024) = false ∨ k.held = false ∨ k.barUse = true
    (bad → exec (.gateSignal src) s = answered s s.blk src 0x838) ∧
    (¬bad → k.waits = [] → exec (.gateSignal src) s = answered s (putGate s.blk g { k with
      value := min (k.value + n) 0xFFFFFFFF, ovf := k.ovf || decide (0xFFFFFFFF < k.value + n) }) src 0) ∧
    (¬bad → exec (.gateSignal src) s = answered s (addSignal s.blk g n) src 0))

/-- stream_arm and stream_rearm with an endpoint outside its Region, with a descriptor outside the stream's Current
(the model's reading of R197, log 148) or, while a job runs, in a Region that it does not hold, or with an absent
Current are refused with 0x838, with a marked descriptor with 0x118, during a stop with 0x10A, with a check of R202
that fails with its code, 0x10A first for a stream that no job holds, 0x102 for an arm of an armed stream and 0x101
for a rearm with a pending transfer; else the transfer is placed and the answer is 0. stream_resume of a stalled
stream ends the stall and changes no other stream. stream_abort ends the active transfer with 0x111 and the pending
one with 0x112, unless one is already ending, and changes no other stream. Both name a usable Current, or are refused
with 0x838. furl and unfurl with an endpoint outside its Region, an absent Current or a unit that R186 does not name
are refused with 0x838, else the job is offered last to its unit, and the command waits for it. (R185, R186, R187,
R202, R203, R223, R224, R432) -/
def Obligations.StreamAndCodecCommands : Prop :=
  (∀ (s : State) (src : Nat) (e : BitVec 512) (rearm : Bool), commandIn s.blk src (0x06 + b2n rearm) e →
    let b := s.blk
    let c : Instr := if rearm then .streamRearm src else .streamArm src
    let sid := fld (cmdArg e 0) 10 0
    let x := getStream b sid
    (leeEp b false (cmdArg e 1) 64 = none ∨ curUsable b (sid / 256) = false ∨
        (∃ r a, leeEp b false (cmdArg e 1) 64 = some (r, a) ∧
          (r.cur ≠ sid / 256 ∨ (b.job.running = true ∧ r.held = false))) →
      exec c s = answered s b src 0x838) ∧
    (∀ r a, leeEp b false (cmdArg e 1) 64 = some (r, a) → curUsable b (sid / 256) = true → r.cur = sid / 256 →
      (b.job.running = true → r.held = true) → b.lee.err = [] →
      let d := markedNat (leeBytesAt b a 64).1
      let arm := BitVec.ofNat 64 (cmdArg e 2)
      (d.2 = true → exec c s = answered s b src 0x118) ∧
      (d.2 = false → b.job.stop.isSome = true → exec c s = answered s b src 0x10A) ∧
      (d.2 = false → b.job.stop = none → x.held = false → exec c s = answered s b src 0x10A) ∧
      (d.2 = false → b.job.stop = none → x.held = true → rearm = false → x.armed ≠ [] → exec c s = answered s b src 0x102) ∧
      (d.2 = false → b.job.stop = none → x.held = true → rearm = true → x.pending.isSome = true →
        exec c s = answered s b src 0x101) ∧
      (∀ k, d.2 = false → b.job.stop = none → armCheck b sid rearm d.1 arm = .error k → exec c s = answered s b src k) ∧
      (∀ y, d.2 = false → b.job.stop = none → armCheck b sid rearm d.1 arm = .ok y →
        exec c s = answered s (placeXfer b sid rearm y) src 0 ∧
        (let z := getStream (placeXfer b sid rearm y) sid
         if rearm = true ∧ x.active.isSome = true then z = { x with pending := some y }
         else z.active = some y ∧ z.pending = none ∧ z.delivered = 0 ∧ z.held = true)))) ∧
  (∀ (s : State) (src : Nat) (e : BitVec 512), let b := s.blk
    let sid := fld (cmdArg e 0) 10 0
    let x := getStream b sid
    (commandIn b src 0x08 e →
      (curUsable b (sid / 256) = false → exec (.streamResume src) s = answered s b src 0x838) ∧
      (curUsable b (sid / 256) = true → ∃ t, exec (.streamResume src) s = .next t ∧
        t.blk.host = (finishCmd b src 0 0 0).host ∧ (∀ i, i ≠ sid → getStream t.blk i = getStream b i) ∧
        getStream t.blk sid = (if x.stalled then { x with stalled := false, bad := none, page := none } else x))) ∧
    (commandIn b src 0x09 e →
      (curUsable b (sid / 256) = false → exec (.streamAbort src) s = answered s b src 0x838) ∧
      (curUsable b (sid / 256) = true → ∃ t, exec (.streamAbort src) s = .next t ∧
        t.blk.host = (finishCmd b src 0 0 0).host ∧ (∀ i, i ≠ sid → getStream t.blk i = getStream b i) ∧
        (let y := getStream t.blk sid
         y.pending = x.pending.map (fun p => { p with ending := some 0x112 }) ∧ y.delivered = x.delivered ∧
         (∀ p, x.active = some p → p.ending = none →
           y.active = some { p with ending := some 0x111 } ∧ y.stalled = false ∧ y.staged = []) ∧
         ((∀ p, x.active = some p → p.ending.isSome = true) → y.active = x.active))))) ∧
  (∀ (s : State) (src : Nat) (e : BitVec 512) (unfurl : Bool), commandIn s.blk src (0x0B + b2n unfurl) e →
    let c : Instr := if unfurl then .unfurlCommand src else .furlCommand src
    let n := fld (cmdArg e 0) 2 0
    let u := fld (cmdArg e 0) 13 8
    let named := u < (if unfurl then 4 else 2) ∨ u = 0x10 ∨ (0x20 ≤ u ∧ u < 0x38)
    (leeEp s.blk true (cmdArg e 1) 128 = none ∨ curUsable s.blk n = false ∨ ¬named →
      exec c s = answered s s.blk src 0x838) ∧
    (∀ r a, leeEp s.blk true (cmdArg e 1) 128 = some (r, a) → curUsable s.blk n = true → named → exec c s =
      becomes s (startCmd { s.blk with codOffers := s.blk.codOffers ++ [⟨.host src, unfurl, n, u, a⟩] } src)))

/-- EN makes a ring only of persistent PLAIN Regions of their own that hold its entries, else 0x839; clearing it ends
it. A doorbell sets the tail, or stops the ring with 0x83A when it passes the ring's size. CPL_HEAD takes a value up
to CPL_TAIL. GO submits the mailbox unless it is busy. Of the sources that are ready, the first after the last one
taken gives the next command, which runs, or is refused with 0x837 for an unknown OPCODE and 0x838 for a reserved
byte; another source's take does nothing. The next completion goes to the slot at CPL_TAIL while one is free, or to
the mailbox registers, which clears BUSY. MGT_IRQ[k] is high while an enabled ring of line k has CPL_TAIL other than
CPL_HEAD, the mask lets it and no reset is low. The management port answers an access outside every window with
MGT_ERR, another with the register's value or write. LEE_DATA moves 4 bytes at LEE_OFF and adds 4, or answers with
MGT_ERR; in Hold it waits. (R425, R426, R427, R428, R429, R430, R431, R432, R433, R434) -/
def Obligations.RingsMailboxAndPort : Prop :=
  (∀ (s : State) (r : Nat) (v : BitVec 32), r < 64 →
    let b := s.blk
    let x := getRing b r
    let y := { x with irq := fld v.toNat 30 28, log2 := max 4 (min 12 (fld v.toNat 27 24)), cmdRegion := fld v.toNat 23 12, cplRegion := fld v.toNat 11 0 }
    let fits (id bytes : Nat) := ∃ g, namedRegion b id = some g ∧ g.persistent = true ∧ g.kind = .plain ∧ bytes ≤ g.size
    let other (id : Nat) := ∃ p ∈ b.host.rings, p.1 ≠ r ∧ p.2.en = true ∧ (p.2.cmdRegion = id ∨ p.2.cplRegion = id)
    let ok := fits y.cmdRegion (64 * 2 ^ y.log2) ∧ fits y.cplRegion (32 * 2 ^ y.log2) ∧ ¬other y.cmdRegion ∧
      ¬other y.cplRegion ∧ y.cmdRegion ≠ y.cplRegion
    let on := v.getLsbD 31 = true
    (x.en = true → on → exec (.ringCfgEn r v) s = .next s) ∧
    (x.en = true → ¬on → ∃ t, exec (.ringCfgEn r v) s = .next t ∧ getRing t.blk r = { x with en := false } ∧
      (∀ c ∈ t.blk.host.cpls, c.dest ≠ r) ∧ ∀ q, q ≠ r → getRing t.blk q = getRing b q) ∧
    (x.en = false → ¬on → exec (.ringCfgEn r v) s = becomes s (putRing b r y)) ∧
    (x.en = false → on → ok → exec (.ringCfgEn r v) s = becomes s (putRing b r { y with en := true, cmdHead := 0, cmdTail := 0, cplHead := 0, cplTail := 0, stopped := false, err := 0 })) ∧
    (x.en = false → on → ¬ok → exec (.ringCfgEn r v) s = becomes s (putRing b r { y with err := 0x839 }))) ∧
  (∀ (s : State) (r : Nat) (v : BitVec 32) (i : BitVec 16), 64 ≤ r → exec (.ringCfgEn r v) s = .next s ∧
    exec (.doorbell r i) s = .next s ∧ exec (.cplHeadWrite r i) s = .next s) ∧
  (∀ (s : State) (r : Nat) (v : BitVec 16), r < 64 → let x := getRing s.blk r
    let ahead (i : Nat) := (v.toNat + 65536 - i) % 65536
    (x.en = false ∨ x.stopped = true → exec (.doorbell r v) s = .next s) ∧
    (x.en = true → x.stopped = false → exec (.doorbell r v) s = becomes s (putRing s.blk r
      (if 2 ^ x.log2 < ahead x.cmdHead then { x with stopped := true, err := 0x83A } else { x with cmdTail := v.toNat }))) ∧
    ((x.cplTail + 65536 - x.cplHead) % 65536 < ahead x.cplHead → exec (.cplHeadWrite r v) s = .next s) ∧
    (ahead x.cplHead ≤ (x.cplTail + 65536 - x.cplHead) % 65536 →
      exec (.cplHeadWrite r v) s = becomes s (putRing s.blk r { x with cplHead := v.toNat }))) ∧
  (∀ s : State, (s.blk.host.mboxBusy = true → exec .mboxGo s = .next s) ∧
    (s.blk.host.mboxBusy = false → ∃ t e, exec .mboxGo s = .next t ∧ t.blk.host.mboxBusy = true ∧
      t.blk.host.mboxGo = some e ∧ t.blk.host.mbox = s.blk.host.mbox ∧
      ∀ w, w < 16 → fld e.toNat (32 * w + 31) (32 * w) = (s.blk.host.mbox.toList.getD w 0).toNat)) ∧
  (∀ (s : State) (src : Nat), s.blk.host.lastSrc < 66 → src < 66 →
    let b := s.blk
    let place (x : Nat) := (x + 65 - b.host.lastSrc) % 66
    let turn := sourceReady b src = true ∧ ∀ x, x < 66 → sourceReady b x = true → place src ≤ place x
    let run (e : BitVec 512) : Prop := ∃ t, exec (.commandTake src) s = .next t ∧ t.blk.host.lastSrc = src ∧
      t.blk.host.taken = b.host.taken + 1 ∧ (∀ x, x ≠ src → Table.find t.blk.host.running x = Table.find b.host.running x) ∧
      (src < 64 → (getRing t.blk src).cmdHead = ((getRing b src).cmdHead + 1) % 65536) ∧
      (src = 64 → t.blk.host.mboxGo = none) ∧ (src = 65 → t.blk.host.mctpCmds = b.host.mctpCmds.drop 1) ∧
      (let code := if knownOpcode (cmdOpcode e) then 0x838 else 0x837
       if knownOpcode (cmdOpcode e) = true ∧ fld e.toNat 31 16 = 0 then
         Table.find t.blk.host.running src = some ⟨e, false, b.host.taken, false⟩ ∧ t.blk.host.cpls = b.host.cpls
       else Table.find t.blk.host.running src = none ∧
         t.blk.host.cpls = b.host.cpls ++ [⟨src, cplEntry (cmdTag e) (cmdOpcode e) 0 code 0 0⟩])
    (¬turn → exec (.commandTake src) s = .next s) ∧
    (∀ e, turn → src = 64 → b.host.mboxGo = some e → run e) ∧
    (∀ e l, turn → src = 65 → b.host.mctpCmds = e :: l → run e) ∧
    (∀ g, turn → src < 64 → namedRegion b (getRing b src).cmdRegion = some g → b.lee.err = [] →
      run (BitVec.ofNat 512 (markedNat (leeBytesAt b
        (regionAddr g + 64 * ((getRing b src).cmdHead % 2 ^ (getRing b src).log2)) 64).1).1))) ∧
  (∀ (s : State) (r : Nat), (∀ c ∈ s.blk.host.cpls, c.dest ≠ r) → exec (.completionWrite r) s = .next s) ∧
  (∀ (s : State) (r : Nat) (c : Cpl) (pre post : List Cpl), s.blk.host.cpls = pre ++ c :: post →
    (∀ p ∈ pre, p.dest ≠ r) → c.dest = r →
    (r = 64 → ∃ t, exec (.completionWrite r) s = .next t ∧ t.blk.host.cpls = pre ++ post ∧ t.blk.host.mboxBusy = false ∧
      ∀ w, w < 8 → (t.blk.host.mboxRes.toList.getD w 0).toNat = fld c.entry.toNat (32 * w + 31) (32 * w)) ∧
    (r = 65 → ∃ t, exec (.completionWrite r) s = .next t ∧ t.blk.host.cpls = pre ++ post ∧ t.blk.host.ibi = true ∧
      t.blk.host.mctpOut = s.blk.host.mctpOut ++ [vendorHead ++ leBytes 32 c.entry.toNat]) ∧
    (r < 64 → (getRing s.blk r).en = false ∨ namedRegion s.blk (getRing s.blk r).cplRegion = none →
      ∃ t, exec (.completionWrite r) s = .next t ∧ t.blk.host.cpls = pre ++ post ∧ t.blk.lee = s.blk.lee ∧
        getRing t.blk r = getRing s.blk r) ∧
    (∀ g, let x := getRing s.blk r
      let a := regionAddr g + 32 * (x.cplTail % 2 ^ x.log2)
      r < 64 → x.en = true → namedRegion s.blk x.cplRegion = some g → s.blk.power.hold = false → regionAddr g % 16 = 0 →
      ((x.cplTail + 65536 - x.cplHead) % 65536 < 2 ^ x.log2 → ∃ t, exec (.completionWrite r) s = .next t ∧
        t.blk.host.cpls = pre ++ post ∧ getRing t.blk r = { x with cplTail := (x.cplTail + 1) % 65536 } ∧
        (∀ i, i < 32 → byteAt t.blk (a + i) = (leBytes 32 c.entry.toNat).getD i 0) ∧
        ∀ k, k < a ∨ a + 32 ≤ k → byteAt t.blk k = byteAt s.blk k) ∧
      (2 ^ x.log2 ≤ (x.cplTail + 65536 - x.cplHead) % 65536 →
        (∀ p ∈ s.blk.host.cpls, p.dest = r → fld p.entry.toNat 55 48 < 2) → exec (.completionWrite r) s = .next s) ∧
      (2 ^ x.log2 ≤ (x.cplTail + 65536 - x.cplHead) % 65536 → 2 ≤ fld c.entry.toNat 55 48 →
        ∃ t, exec (.completionWrite r) s = .next t ∧ t.blk.host.cpls = pre ++ post ∧ t.blk.lee = s.blk.lee ∧
          t.blk.host.dropped = min 65535 (s.blk.host.dropped + 1)))) ∧
  (∀ (b : Block) (k : Nat), k < 8 → (∀ p ∈ b.host.rings, p.2.cplHead < 65536 ∧ p.2.cplTail < 65536) →
    (bit (mgtIrq b) k = true ↔ b.start.phase ≠ .reset ∧ bit b.host.irqMask k = true ∧
      ∃ p ∈ b.host.rings, p.2.en = true ∧ p.2.irq = k ∧ p.2.cplHead ≠ p.2.cplTail)) ∧
  (∀ (s : State) (we : Bool) (a v : BitVec 32), let b := s.blk
    let outside := a.toNat % 4 ≠ 0 ∨ winOf a.toNat = none
    (b.start.phase = .reset → exec (.mgtReq we a v) s = .next s) ∧
    (b.start.phase ≠ .reset → outside → exec (.mgtReq we a v) s = becomes s (answer b true 0)) ∧
    (b.start.phase ≠ .reset → a.toNat = 0x101308 → exec (.mgtReq we a v) s = exec (.leeData we v) s) ∧
    (b.start.phase ≠ .reset → ¬outside → a.toNat ≠ 0x101308 →
      (we = false → ∃ t, exec (.mgtReq we a v) s = .next t ∧ t.blk.host.ack = true ∧ t.blk.host.err = false ∧
        t.blk.host.rdata = BitVec.ofNat 32 (regValue s.fuses (regLatch b a.toNat) a.toNat) ∧ t.blk.lee = b.lee) ∧
      (we = true → 0x301000 ≤ a.toNat → a.toNat ≤ 0x301400 → 2 ≤ b.sec.state →
        exec (.mgtReq we a v) s = becomes s (answer b true 0)) ∧
      (we = true → a.toNat < 0x301000 ∨ 0x301400 < a.toNat ∨ b.sec.state < 2 →
        exec (.mgtReq we a v) s = becomes s (answer (regWrite s.fuses b a v) false 0)))) ∧
  (∀ (s : State) (we : Bool) (v : BitVec 32), s.blk.power.hold = true → exec (.leeData we v) s = .next s) ∧
  (∀ (s : State) (we : Bool) (v : BitVec 32), s.blk.power.hold = false →
    let b := s.blk
    let off := b.host.leeOff
    let bad (r : Region) := r.kind = .stash ∨ r.size ≤ off ∨ (we = true ∧ r.kind = .reduce ∧ off < 64)
    (namedRegion b b.host.leeRegion = none → exec (.leeData we v) s = becomes s (answer b true 0)) ∧
    (∀ r, namedRegion b b.host.leeRegion = some r → let a := regionAddr r + off
      (bad r → exec (.leeData we v) s = becomes s (answer b true 0)) ∧
      (¬bad r → b.lee.err = [] → a % 4 = 0 → ∃ t, exec (.leeData we v) s = .next t ∧ t.blk.host.ack = true ∧
        t.blk.host.err = false ∧ t.blk.host.leeOff = (off + 4) % 2 ^ 31 ∧
        (we = false → t.blk.host.rdata.toNat = leNat ((List.range 4).map (fun i => byteAt b (a + i))) ∧
          t.blk.lee = b.lee) ∧
        (we = true → ∀ k, byteAt t.blk k =
          if a ≤ k ∧ k < a + 4 then (leBytes 4 v.toNat).getD (k - a) 0 else byteAt b k))))

/-- SETDASA or ENTDAA outside reset gives the dynamic address. Without one, or in reset, and for a message of more
than 256 bytes, an MCTP or PLDM message changes nothing. Set Endpoint ID to a valid ID takes it and answers it, Get
Endpoint ID answers it. A vendor message of 64 bytes puts a command entry behind those that wait; one of 4 bytes
answers with the register's value, one of 8 with a register write by the rules of the management port; a debug message
below its level changes nothing. Outside the ROM monitor a PLDM request is answered; its sensors 0x0001 + s, 0x0101 +
d and 0x0201 + n read PWR.TEMP_s, PWR.EST_d and PWR.GALE_n.CUR, with the state disabled where R439 says so, and 0x0301
and 0x0310 + l the states of the block and of link l; other commands are answered with the error code 5. An answer is
queued for the controller and raises the in-band interrupt. The message layouts are the model's (logs 45 and 53).
(R414, R425, R438, R439) -/
def Obligations.MctpAndPldmAnswer : Prop :=
  (∀ (s : State) (a : BitVec 7), (s.blk.start.phase = .reset → exec (.dynamicAddress a) s = .next s) ∧
    (s.blk.start.phase ≠ .reset → exec (.dynamicAddress a) s =
      becomes s { s.blk with host := { s.blk.host with dynAddr := some a.toNat } })) ∧
  (∀ (s : State) (m : List (BitVec 8)), s.blk.start.phase = .reset ∨ s.blk.host.dynAddr = none ∨ 256 < m.length →
    exec (.mctpMessage m) s = .next s ∧ exec (.pldmCommand m) s = .next s) ∧
  (∀ s : State, let b := s.blk
    let sends (b' : Block) (l : List (BitVec 8)) :=
      becomes s { b' with host := { b'.host with mctpOut := b'.host.mctpOut ++ [l], ibi := true } }
    b.start.phase ≠ .reset → b.host.dynAddr.isSome = true →
    (∀ inst id : BitVec 8, 128 ≤ inst.toNat → id ≠ 0 → id ≠ 0xFF → exec (.mctpMessage [0, inst, 1, 0, id]) s =
      sends { b with host := { b.host with eid := id.toNat } } [0, BitVec.ofNat 8 (inst.toNat % 32), 1, 0, 0, id, 0]) ∧
    (∀ inst : BitVec 8, 128 ≤ inst.toNat → exec (.mctpMessage [0, inst, 2]) s =
      sends b [0, BitVec.ofNat 8 (inst.toNat % 32), 2, 0, BitVec.ofNat 8 b.host.eid, 0, 0]) ∧
    (∀ e : List (BitVec 8), e.length = 64 → b.start.monitor = false → exec (.mctpMessage (vendorHead ++ e)) s =
      becomes s { b with host := { b.host with mctpCmds := b.host.mctpCmds ++ [BitVec.ofNat 512 (leNat e)] } }) ∧
    (∀ a : BitVec 32, a.toNat % 4 = 0 → winOf a.toNat ≠ none → a.toNat ≠ 0x101308 →
      ∃ t, exec (.mctpMessage (vendorHead ++ leBytes 4 a.toNat)) s = .next t ∧ t.blk.host.ack = b.host.ack ∧
        t.blk.lee = b.lee ∧ t.blk.host.mctpOut = b.host.mctpOut ++ [vendorHead ++ [0] ++
          leBytes 4 (regValue s.fuses (regLatch b a.toNat) a.toNat % 2 ^ 32)]) ∧
    (∀ a v : BitVec 32, b.start.monitor = false → a.toNat % 4 = 0 → winOf a.toNat ≠ none → a.toNat ≠ 0x101308 →
      a.toNat < 0x301000 ∨ 0x301400 < a.toNat ∨ b.sec.state < 2 →
      let w := regWrite s.fuses { b with host := { b.host with ack := false } } a v
      exec (.mctpMessage (vendorHead ++ leBytes 4 a.toNat ++ leBytes 4 v.toNat)) s =
        sends { w with host := { w.host with ack := b.host.ack, err := b.host.err, rdata := b.host.rdata } }
          (vendorHead ++ [0, 0, 0, 0, 0])) ∧
    (∀ m : List (BitVec 8), m.length = 25 → b.start.monitor = false →
      (let op := (m.getD 0 0).toNat
       15 < op ∨ b.sec.level = 0 ∨ (op ∈ [1, 3, 5, 7, 8, 9] ∧ b.sec.level < 2)) →
      exec (.mctpMessage (vendorHead ++ m)) s = .next s) ∧
    (b.start.monitor = true → ∀ m, exec (.pldmCommand m) s = .next s) ∧
    (b.start.monitor = false →
      (∀ inst : BitVec 8, let head (ty cmd : BitVec 8) : List (BitVec 8) := [1, BitVec.ofNat 8 (inst.toNat % 32), ty, cmd]
       exec (.pldmCommand [1, inst, 0, 2]) s = sends b (head 0 2 ++ [0, 0]) ∧
       (∀ ty cmd : BitVec 8, ty.toNat < 64 → ty ≠ 0 → ty ≠ 2 →
         exec (.pldmCommand [1, inst, ty, cmd]) s = sends b (head ty cmd ++ [5])) ∧
       (∀ id : Nat, id < 65536 →
         let get := exec (.pldmCommand ([1, inst, 2, 0x11] ++ leBytes 2 id ++ [0])) s
         let reads (on : Bool) (v : Nat) := get = sends b (head 2 0x11 ++
           [0, 2, if on then 0 else 1, 0, 0, 0, 0] ++ leBytes 2 v)
         (∀ k, k < 32 → id = 1 + k → reads (reading b k).isSome ((reading b k).getD 0)) ∧
         (∀ d, d < 13 → id = 0x101 + d → reads true (Table.get 0 b.power.est d)) ∧
         (∀ n, n < 8 → id = 0x201 + n → reads (curUsable b n) (getGale b n).cur) ∧
         (0x20 < id → id < 0x101 → get = sends b (head 2 0x11 ++ [0x80]))) ∧
       (let state (id v : Nat) := exec (.pldmCommand ([1, inst, 2, 0x21] ++ leBytes 2 id ++ [0, 0])) s =
          sends b (head 2 0x21 ++ [0, 1, 0, BitVec.ofNat 8 v, 0, 0])
        state 0x301 (if b.power.hold then 3 else if b.start.phase = .run then 2 else if b.start.phase = .calm then 4 else 1) ∧
        ∀ l, l < 24 → state (0x310 + l) ((getLink b l).state + 1)))))

/-- State.reset has Lee memory in its canonical form with no byte listed, every link and port within its bounds and no
unread record, so that the invariants that every step keeps hold in it. It lies in reset with RST_COLD_N low (the
model's choice, log 7), no command waits in its queue, no job runs, no link or port is up, no MGT_IRQ line is high, no
fuse is blown (the model's choice, log 4), and no command is running. (R226, R277, R317, R353, R367, R382, R22) -/
def Obligations.ResetKeepsInvariants : Prop :=
  memoryWf State.reset.blk = true ∧ State.reset.blk.lee.mem = [] ∧ (∀ a, byteAt State.reset.blk a = 0) ∧
  buffersBounded State.reset.blk ∧ unread State.reset.blk.evt = 0 ∧ State.reset.pending = [] ∧
  State.reset.blk.start.phase = .reset ∧ State.reset.blk.start.coldLow = true ∧ State.reset.blk.job.running = false ∧
  (∀ l, linkUp State.reset.blk l = false) ∧ (∀ f, portUp State.reset.blk f = false) ∧ mgtIrq State.reset.blk = 0 ∧
  lifecycleOf State.reset.fuses = 0 ∧ rollbackCount State.reset.fuses = 0 ∧ State.reset.blk.host.running = []
end

