-- ==== Sys2Proof/Laws/Command.lean ====
section
/-! SUPPORT. What the shared frames of the commands and of the clocked rows do (R396, R430, R432). -/

namespace Sys2Proof.Laws

open Sys2Proof.Machine Sys2Proof.Safety

/-- In Hold a clocked row changes nothing. -/
theorem clockedStep_of_hold (f : Block → Block) (b : Block) (h : b.power.hold = true) : clockedStep f b = b := by
  simp [clockedStep, h]

/-- Out of Hold a clocked row has its effect. -/
theorem clockedStep_of_run (f : Block → Block) (b : Block) (h : b.power.hold = false) : clockedStep f b = f b := by
  simp [clockedStep, h]

/-- A command that Windsock may run is run on its entry. -/
theorem command_of_commandIn (op : Nat) (f : BitVec 512 → Nat → Block → Block) (src : Nat) (b : Block) (e : BitVec 512)
    (h : commandIn b src op e) : command op f src b = f e src b := by
  obtain ⟨c, hf, rfl, hop, hs, ho, hn, ha⟩ := h
  have hl : (needsLee c.entry && b.power.hold) = false := by
    cases hc : needsLee c.entry <;> simp_all
  simp [command, hf, hop, hs, ho, hl, ha]

/-- The same for a command that can blow fuses. -/
theorem commandF_of_commandIn (op : Nat) (f : BitVec 512 → Nat → Fuses → Block → Fuses × Block) (src : Nat) (s : State)
    (e : BitVec 512) (h : commandIn s.blk src op e) :
    commandF op f src s = .next { s with fuses := (f e src s.fuses s.blk).1, blk := (f e src s.fuses s.blk).2 } := by
  obtain ⟨c, hf, rfl, hop, hs, ho, hn, ha⟩ := h
  have hl : (needsLee c.entry && s.blk.power.hold) = false := by
    cases hc : needsLee c.entry <;> simp_all
  simp [commandF, hf, hop, hs, ho, hl, ha]

/-- With no command of its source taken, a command row changes nothing. -/
theorem command_of_none (op : Nat) (f : BitVec 512 → Nat → Block → Block) (src : Nat) (b : Block)
    (h : Table.find b.host.running src = none) : command op f src b = b := by
  simp [command, h]

end Sys2Proof.Laws
end

