-- ==== Sys2Proof/Laws/Table.lean ====
section
/-! SUPPORT. Laws of sparse tables and sorted sets: what a read after a write gives, and that writes keep the canonical
form. -/

namespace Sys2Proof.Machine

variable {α : Type}

/-! ## Reads after writes -/

@[simp] theorem Table.find_erase_self (t : Table α) (k : Nat) : Table.find (Table.erase t k) k = none := by
  induction t with
  | nil => rfl
  | cons p r ih => by_cases h : p.1 = k <;> simp [Table.erase, Table.find, h, ih]

theorem Table.find_erase_ne (t : Table α) {k j : Nat} (h : j ≠ k) : Table.find (Table.erase t k) j = Table.find t j := by
  induction t with
  | nil => rfl
  | cons p r ih =>
    by_cases hp : p.1 = k
    · have hj : p.1 ≠ j := fun e => h (e ▸ hp)
      rw [Table.erase, if_pos hp, ih, Table.find, if_neg hj]
    · simp only [Table.erase, if_neg hp, Table.find, ih]

@[simp] theorem Table.find_insert_self (t : Table α) (k : Nat) (v : α) (h : Table.find t k = none) :
    Table.find (Table.insert t k v) k = some v := by
  induction t with
  | nil => simp [Table.insert, Table.find]
  | cons p r ih =>
    by_cases hp : k < p.1
    · simp [Table.insert, hp, Table.find]
    · have hk : p.1 ≠ k := fun e => by simp [Table.find, e] at h
      have hr : Table.find r k = none := by simpa [Table.find, hk] using h
      simp [Table.insert, hp, Table.find, hk, ih hr]

theorem Table.find_insert_ne (t : Table α) {k j : Nat} (v : α) (h : j ≠ k) :
    Table.find (Table.insert t k v) j = Table.find t j := by
  induction t with
  | nil => simp [Table.insert, Table.find, Ne.symm h]
  | cons p r ih =>
    by_cases hp : k < p.1
    · simp [Table.insert, hp, Table.find, Ne.symm h]
    · simp only [Table.insert, if_neg hp, Table.find, ih]

@[simp] theorem Table.find_add_self (t : Table α) (k : Nat) (v : α) : Table.find (Table.add t k v) k = some v :=
  Table.find_insert_self _ _ _ (Table.find_erase_self t k)

theorem Table.find_add_ne (t : Table α) {k j : Nat} (v : α) (h : j ≠ k) :
    Table.find (Table.add t k v) j = Table.find t j := by
  rw [Table.add, Table.find_insert_ne _ _ h, Table.find_erase_ne _ h]

@[simp] theorem Table.get_put_self [DecidableEq α] (d : α) (t : Table α) (k : Nat) (v : α) :
    Table.get d (Table.put d t k v) k = v := by
  by_cases h : v = d <;> simp [Table.get, Table.put, h]

theorem Table.get_put_ne [DecidableEq α] (d : α) (t : Table α) {k j : Nat} (v : α) (h : j ≠ k) :
    Table.get d (Table.put d t k v) j = Table.get d t j := by
  by_cases hv : v = d
  · simp [Table.get, Table.put, hv, Table.find_erase_ne _ h]
  · simp [Table.get, Table.put, hv, Table.find_insert_ne _ _ h, Table.find_erase_ne _ h]

/-- A read after a write. -/
theorem Table.get_put [DecidableEq α] (d : α) (t : Table α) (k j : Nat) (v : α) :
    Table.get d (Table.put d t k v) j = if j = k then v else Table.get d t j := by
  by_cases h : j = k
  · subst h; simp
  · rw [if_neg h, Table.get_put_ne d t v h]

theorem Table.erase_of_find_none (t : Table α) (k : Nat) (h : Table.find t k = none) : Table.erase t k = t := by
  induction t with
  | nil => rfl
  | cons p r ih =>
    by_cases hp : p.1 = k
    · simp [Table.find, hp] at h
    · simp only [Table.find, if_neg hp] at h
      simp only [Table.erase, if_neg hp, ih h]

theorem Table.erase_insert_self (t : Table α) (k : Nat) (v : α) : Table.erase (Table.insert t k v) k = Table.erase t k := by
  induction t with
  | nil => simp [Table.insert, Table.erase]
  | cons p r ih =>
    by_cases hp : k < p.1
    · simp [Table.insert, hp, Table.erase]
    · by_cases hk : p.1 = k <;> simp [Table.insert, hp, Table.erase, hk, ih]

@[simp] theorem Table.erase_erase (t : Table α) (k : Nat) : Table.erase (Table.erase t k) k = Table.erase t k :=
  Table.erase_of_find_none _ _ (Table.find_erase_self t k)

@[simp] theorem Table.erase_put [DecidableEq α] (d : α) (t : Table α) (k : Nat) (v : α) :
    Table.erase (Table.put d t k v) k = Table.erase t k := by
  by_cases h : v = d <;> simp [Table.put, h, Table.erase_insert_self]

/-- The later of two writes of one key stands. -/
@[simp] theorem Table.put_put [DecidableEq α] (d : α) (t : Table α) (k : Nat) (u v : α) :
    Table.put d (Table.put d t k u) k v = Table.put d t k v := by
  simp only [Table.put]
  by_cases h : u = d <;> by_cases h' : v = d <;> simp [h, h', Table.erase_insert_self]

/-! ## The canonical form -/

/-- Strictly rising keys and no entry that reads like none. -/
def Table.Canon (d : α) : Table α → Prop
  | [] => True
  | p :: r => (∀ q ∈ r, p.1 < q.1) ∧ p.2 ≠ d ∧ Table.Canon d r

/-- A change of every value is seen at every key whose unlisted value it keeps. -/
theorem Table.get_mapKeys [DecidableEq α] (d : α) (t : Table α) (f : Nat → α → α) (hf : ∀ k, f k d = d) (k : Nat) :
    Table.get d (Table.mapKeys d t f) k = f k (Table.get d t k) := by
  induction t with
  | nil => exact (hf k).symm
  | cons p r ih =>
    rw [Table.mapKeys, Table.get_put]
    by_cases h : p.1 = k
    · simp [Table.get, Table.find, h]
    · rw [if_neg (Ne.symm h), ih]; simp [Table.get, Table.find, h]

theorem Table.get_mapAll [DecidableEq α] (d : α) (t : Table α) (f : α → α) (hf : f d = d) (k : Nat) :
    Table.get d (Table.mapAll d t f) k = f (Table.get d t k) := Table.get_mapKeys d t _ (fun _ => hf) k

theorem Table.wf_iff [DecidableEq α] (d : α) (t : Table α) : Table.wf d t = true ↔ Table.Canon d t := by
  induction t with
  | nil => simp [Table.wf, Table.Canon]
  | cons p r ih =>
    have hall : (Table.wf d r = true) → ∀ q ∈ r, q.2 ≠ d := by
      intro h
      cases r with
      | nil => simp
      | cons a l =>
        rw [Table.wf, Bool.and_eq_true, List.all_eq_true] at h
        exact fun q hq => by simpa using h.2 q hq
    rw [Table.wf]
    simp only [Bool.and_eq_true, List.all_eq_true, List.mem_cons, forall_eq_or_imp, decide_eq_true_eq,
      Table.Canon, ne_eq]
    constructor
    · rintro ⟨⟨h1, h2⟩, h3, -⟩
      exact ⟨fun q hq => h1 q hq, h3, ih.1 h2⟩
    · rintro ⟨h1, h2, h3⟩
      exact ⟨⟨fun q hq => h1 q hq, ih.2 h3⟩, h2, fun q hq => hall (ih.2 h3) q hq⟩

theorem Table.mem_erase (t : Table α) (k : Nat) : ∀ q ∈ Table.erase t k, q ∈ t ∧ q.1 ≠ k := by
  induction t with
  | nil => simp [Table.erase]
  | cons p r ih =>
    intro q hq
    by_cases h : p.1 = k
    · rw [Table.erase, if_pos h] at hq
      exact ⟨List.mem_cons_of_mem _ (ih q hq).1, (ih q hq).2⟩
    · rw [Table.erase, if_neg h] at hq
      rcases List.mem_cons.1 hq with rfl | hq
      · exact ⟨List.mem_cons_self, h⟩
      · exact ⟨List.mem_cons_of_mem _ (ih q hq).1, (ih q hq).2⟩

theorem Table.Canon.erase (d : α) (t : Table α) (k : Nat) (h : Table.Canon d t) : Table.Canon d (Table.erase t k) := by
  induction t with
  | nil => exact h
  | cons p r ih =>
    by_cases hp : p.1 = k
    · rw [Table.erase, if_pos hp]; exact ih h.2.2
    · rw [Table.erase, if_neg hp]
      exact ⟨fun q hq => h.1 q (Table.mem_erase r k q hq).1, h.2.1, ih h.2.2⟩

theorem Table.mem_insert (t : Table α) (k : Nat) (v : α) : ∀ q ∈ Table.insert t k v, q = (k, v) ∨ q ∈ t := by
  induction t with
  | nil => simp [Table.insert]
  | cons p r ih =>
    intro q hq
    by_cases h : k < p.1
    · rw [Table.insert, if_pos h] at hq
      exact (List.mem_cons.1 hq).imp id id
    · rw [Table.insert, if_neg h] at hq
      rcases List.mem_cons.1 hq with rfl | hq
      · exact Or.inr List.mem_cons_self
      · exact (ih q hq).imp id (List.mem_cons_of_mem _)

theorem Table.Canon.insert (d : α) (t : Table α) (k : Nat) (v : α) (hv : v ≠ d) (hk : ∀ q ∈ t, q.1 ≠ k)
    (h : Table.Canon d t) : Table.Canon d (Table.insert t k v) := by
  induction t with
  | nil => exact ⟨by simp, hv, trivial⟩
  | cons p r ih =>
    by_cases hp : k < p.1
    · rw [Table.insert, if_pos hp]
      refine ⟨fun q hq => ?_, hv, h⟩
      rcases List.mem_cons.1 hq with rfl | hq
      · exact hp
      · exact Nat.lt_trans hp (h.1 q hq)
    · rw [Table.insert, if_neg hp]
      refine ⟨fun q hq => ?_, h.2.1, ih (fun q hq => hk q (List.mem_cons_of_mem _ hq)) h.2.2⟩
      rcases Table.mem_insert r k v q hq with rfl | hq
      · exact Nat.lt_of_le_of_ne (Nat.le_of_not_lt hp) (hk p List.mem_cons_self)
      · exact h.1 q hq

/-- A write keeps the canonical form. -/
theorem Table.wf_put [DecidableEq α] (d : α) (t : Table α) (k : Nat) (v : α) (h : Table.wf d t = true) :
    Table.wf d (Table.put d t k v) = true := by
  rw [Table.wf_iff] at h ⊢
  by_cases hv : v = d
  · rw [Table.put, if_pos hv]; exact h.erase d t k
  · rw [Table.put, if_neg hv]
    exact (h.erase d t k).insert d _ k v hv (fun q hq => (Table.mem_erase t k q hq).2)

theorem Table.wf_erase [DecidableEq α] (d : α) (t : Table α) (k : Nat) (h : Table.wf d t = true) :
    Table.wf d (Table.erase t k) = true := by
  rw [Table.wf_iff] at h ⊢
  exact h.erase d t k

theorem Table.Canon.filter (d : α) (t : Table α) (p : Nat × α → Bool) (h : Table.Canon d t) :
    Table.Canon d (t.filter p) := by
  induction t with
  | nil => exact h
  | cons a r ih =>
    by_cases ha : p a = true
    · rw [List.filter_cons_of_pos ha]
      exact ⟨fun q hq => h.1 q (List.mem_filter.1 hq).1, h.2.1, ih h.2.2⟩
    · rw [List.filter_cons_of_neg ha]; exact ih h.2.2

/-- Removing entries keeps the canonical form. -/
theorem Table.wf_filter [DecidableEq α] (d : α) (t : Table α) (p : Nat × α → Bool) (h : Table.wf d t = true) :
    Table.wf d (t.filter p) = true := by
  rw [Table.wf_iff] at h ⊢
  exact h.filter d t p

/-! ## Sorted sets -/

theorem mem_setInsert (l : List Nat) (k a : Nat) : a ∈ setInsert l k ↔ a = k ∨ a ∈ l := by
  induction l with
  | nil => simp [setInsert]
  | cons b r ih =>
    rw [setInsert]
    split
    · simp
    · split
      · rename_i h; subst h; simp
      · simp only [List.mem_cons, ih]
        exact or_left_comm

theorem mem_setErase (l : List Nat) (k a : Nat) : a ∈ setErase l k ↔ a ∈ l ∧ a ≠ k := by
  simp [setErase]

end Sys2Proof.Machine
end

