-- ==== Sys2Proof/Laws/State.lean ====
section
/-! SUPPORT. One lemma per field of the block and per update of one record: what the update leaves as it was, and what a
record reads as after it was put. -/

namespace Sys2Proof.Machine

variable (b : Block)

/-! ## putEddy -/

@[simp] theorem putEddy_evt (e : Nat) (x : Eddy) : (putEddy b e x).evt = b.evt := rfl
@[simp] theorem putEddy_lee (e : Nat) (x : Eddy) : (putEddy b e x).lee = b.lee := rfl
@[simp] theorem putEddy_gates (e : Nat) (x : Eddy) : (putEddy b e x).gates = b.gates := rfl
@[simp] theorem putEddy_gateMsgs (e : Nat) (x : Eddy) : (putEddy b e x).gateMsgs = b.gateMsgs := rfl
@[simp] theorem putEddy_feeds (e : Nat) (x : Eddy) : (putEddy b e x).feeds = b.feeds := rfl
@[simp] theorem putEddy_ports (e : Nat) (x : Eddy) : (putEddy b e x).ports = b.ports := rfl
@[simp] theorem putEddy_currents (e : Nat) (x : Eddy) : (putEddy b e x).currents = b.currents := rfl
@[simp] theorem putEddy_streams (e : Nat) (x : Eddy) : (putEddy b e x).streams = b.streams := rfl
@[simp] theorem putEddy_ctxs (e : Nat) (x : Eddy) : (putEddy b e x).ctxs = b.ctxs := rfl
@[simp] theorem putEddy_links (e : Nat) (x : Eddy) : (putEddy b e x).links = b.links := rfl
@[simp] theorem putEddy_ranges (e : Nat) (x : Eddy) : (putEddy b e x).ranges = b.ranges := rfl
@[simp] theorem putEddy_dups (e : Nat) (x : Eddy) : (putEddy b e x).dups = b.dups := rfl
@[simp] theorem putEddy_unknown (e : Nat) (x : Eddy) : (putEddy b e x).unknown = b.unknown := rfl
@[simp] theorem putEddy_codecs (e : Nat) (x : Eddy) : (putEddy b e x).codecs = b.codecs := rfl
@[simp] theorem putEddy_codOffers (e : Nat) (x : Eddy) : (putEddy b e x).codOffers = b.codOffers := rfl
@[simp] theorem putEddy_arbiters (e : Nat) (x : Eddy) : (putEddy b e x).arbiters = b.arbiters := rfl
@[simp] theorem putEddy_seam (e : Nat) (x : Eddy) : (putEddy b e x).seam = b.seam := rfl
@[simp] theorem putEddy_host (e : Nat) (x : Eddy) : (putEddy b e x).host = b.host := rfl
@[simp] theorem putEddy_job (e : Nat) (x : Eddy) : (putEddy b e x).job = b.job := rfl
@[simp] theorem putEddy_start (e : Nat) (x : Eddy) : (putEddy b e x).start = b.start := rfl
@[simp] theorem putEddy_power (e : Nat) (x : Eddy) : (putEddy b e x).power = b.power := rfl
@[simp] theorem putEddy_sec (e : Nat) (x : Eddy) : (putEddy b e x).sec = b.sec := rfl
@[simp] theorem putEddy_vaneAuto (e : Nat) (x : Eddy) : (putEddy b e x).vaneAuto = b.vaneAuto := rfl
@[simp] theorem putEddy_vaneJobs (e : Nat) (x : Eddy) : (putEddy b e x).vaneJobs = b.vaneJobs := rfl
@[simp] theorem putEddy_setNow (e : Nat) (x : Eddy) : (putEddy b e x).setNow = b.setNow := rfl
@[simp] theorem putEddy_fresh (e : Nat) (x : Eddy) : (putEddy b e x).fresh = b.fresh := rfl

/-! ## putGate -/

@[simp] theorem putGate_evt (g : Nat) (x : Gate) : (putGate b g x).evt = b.evt := rfl
@[simp] theorem putGate_lee (g : Nat) (x : Gate) : (putGate b g x).lee = b.lee := rfl
@[simp] theorem putGate_eddies (g : Nat) (x : Gate) : (putGate b g x).eddies = b.eddies := rfl
@[simp] theorem putGate_gateMsgs (g : Nat) (x : Gate) : (putGate b g x).gateMsgs = b.gateMsgs := rfl
@[simp] theorem putGate_feeds (g : Nat) (x : Gate) : (putGate b g x).feeds = b.feeds := rfl
@[simp] theorem putGate_ports (g : Nat) (x : Gate) : (putGate b g x).ports = b.ports := rfl
@[simp] theorem putGate_currents (g : Nat) (x : Gate) : (putGate b g x).currents = b.currents := rfl
@[simp] theorem putGate_streams (g : Nat) (x : Gate) : (putGate b g x).streams = b.streams := rfl
@[simp] theorem putGate_ctxs (g : Nat) (x : Gate) : (putGate b g x).ctxs = b.ctxs := rfl
@[simp] theorem putGate_links (g : Nat) (x : Gate) : (putGate b g x).links = b.links := rfl
@[simp] theorem putGate_ranges (g : Nat) (x : Gate) : (putGate b g x).ranges = b.ranges := rfl
@[simp] theorem putGate_dups (g : Nat) (x : Gate) : (putGate b g x).dups = b.dups := rfl
@[simp] theorem putGate_unknown (g : Nat) (x : Gate) : (putGate b g x).unknown = b.unknown := rfl
@[simp] theorem putGate_codecs (g : Nat) (x : Gate) : (putGate b g x).codecs = b.codecs := rfl
@[simp] theorem putGate_codOffers (g : Nat) (x : Gate) : (putGate b g x).codOffers = b.codOffers := rfl
@[simp] theorem putGate_arbiters (g : Nat) (x : Gate) : (putGate b g x).arbiters = b.arbiters := rfl
@[simp] theorem putGate_seam (g : Nat) (x : Gate) : (putGate b g x).seam = b.seam := rfl
@[simp] theorem putGate_host (g : Nat) (x : Gate) : (putGate b g x).host = b.host := rfl
@[simp] theorem putGate_job (g : Nat) (x : Gate) : (putGate b g x).job = b.job := rfl
@[simp] theorem putGate_start (g : Nat) (x : Gate) : (putGate b g x).start = b.start := rfl
@[simp] theorem putGate_power (g : Nat) (x : Gate) : (putGate b g x).power = b.power := rfl
@[simp] theorem putGate_sec (g : Nat) (x : Gate) : (putGate b g x).sec = b.sec := rfl
@[simp] theorem putGate_vaneAuto (g : Nat) (x : Gate) : (putGate b g x).vaneAuto = b.vaneAuto := rfl
@[simp] theorem putGate_vaneJobs (g : Nat) (x : Gate) : (putGate b g x).vaneJobs = b.vaneJobs := rfl
@[simp] theorem putGate_setNow (g : Nat) (x : Gate) : (putGate b g x).setNow = b.setNow := rfl
@[simp] theorem putGate_fresh (g : Nat) (x : Gate) : (putGate b g x).fresh = b.fresh := rfl

/-! ## putStream -/

@[simp] theorem putStream_evt (i : Nat) (x : Stream) : (putStream b i x).evt = b.evt := rfl
@[simp] theorem putStream_lee (i : Nat) (x : Stream) : (putStream b i x).lee = b.lee := rfl
@[simp] theorem putStream_eddies (i : Nat) (x : Stream) : (putStream b i x).eddies = b.eddies := rfl
@[simp] theorem putStream_gates (i : Nat) (x : Stream) : (putStream b i x).gates = b.gates := rfl
@[simp] theorem putStream_gateMsgs (i : Nat) (x : Stream) : (putStream b i x).gateMsgs = b.gateMsgs := rfl
@[simp] theorem putStream_feeds (i : Nat) (x : Stream) : (putStream b i x).feeds = b.feeds := rfl
@[simp] theorem putStream_ports (i : Nat) (x : Stream) : (putStream b i x).ports = b.ports := rfl
@[simp] theorem putStream_currents (i : Nat) (x : Stream) : (putStream b i x).currents = b.currents := rfl
@[simp] theorem putStream_ctxs (i : Nat) (x : Stream) : (putStream b i x).ctxs = b.ctxs := rfl
@[simp] theorem putStream_links (i : Nat) (x : Stream) : (putStream b i x).links = b.links := rfl
@[simp] theorem putStream_ranges (i : Nat) (x : Stream) : (putStream b i x).ranges = b.ranges := rfl
@[simp] theorem putStream_dups (i : Nat) (x : Stream) : (putStream b i x).dups = b.dups := rfl
@[simp] theorem putStream_unknown (i : Nat) (x : Stream) : (putStream b i x).unknown = b.unknown := rfl
@[simp] theorem putStream_codecs (i : Nat) (x : Stream) : (putStream b i x).codecs = b.codecs := rfl
@[simp] theorem putStream_codOffers (i : Nat) (x : Stream) : (putStream b i x).codOffers = b.codOffers := rfl
@[simp] theorem putStream_arbiters (i : Nat) (x : Stream) : (putStream b i x).arbiters = b.arbiters := rfl
@[simp] theorem putStream_seam (i : Nat) (x : Stream) : (putStream b i x).seam = b.seam := rfl
@[simp] theorem putStream_host (i : Nat) (x : Stream) : (putStream b i x).host = b.host := rfl
@[simp] theorem putStream_job (i : Nat) (x : Stream) : (putStream b i x).job = b.job := rfl
@[simp] theorem putStream_start (i : Nat) (x : Stream) : (putStream b i x).start = b.start := rfl
@[simp] theorem putStream_power (i : Nat) (x : Stream) : (putStream b i x).power = b.power := rfl
@[simp] theorem putStream_sec (i : Nat) (x : Stream) : (putStream b i x).sec = b.sec := rfl
@[simp] theorem putStream_vaneAuto (i : Nat) (x : Stream) : (putStream b i x).vaneAuto = b.vaneAuto := rfl
@[simp] theorem putStream_vaneJobs (i : Nat) (x : Stream) : (putStream b i x).vaneJobs = b.vaneJobs := rfl
@[simp] theorem putStream_setNow (i : Nat) (x : Stream) : (putStream b i x).setNow = b.setNow := rfl
@[simp] theorem putStream_fresh (i : Nat) (x : Stream) : (putStream b i x).fresh = b.fresh := rfl

/-! ## putCtx -/

@[simp] theorem putCtx_evt (c : Nat) (x : XltCtx) : (putCtx b c x).evt = b.evt := rfl
@[simp] theorem putCtx_lee (c : Nat) (x : XltCtx) : (putCtx b c x).lee = b.lee := rfl
@[simp] theorem putCtx_eddies (c : Nat) (x : XltCtx) : (putCtx b c x).eddies = b.eddies := rfl
@[simp] theorem putCtx_gates (c : Nat) (x : XltCtx) : (putCtx b c x).gates = b.gates := rfl
@[simp] theorem putCtx_gateMsgs (c : Nat) (x : XltCtx) : (putCtx b c x).gateMsgs = b.gateMsgs := rfl
@[simp] theorem putCtx_feeds (c : Nat) (x : XltCtx) : (putCtx b c x).feeds = b.feeds := rfl
@[simp] theorem putCtx_ports (c : Nat) (x : XltCtx) : (putCtx b c x).ports = b.ports := rfl
@[simp] theorem putCtx_currents (c : Nat) (x : XltCtx) : (putCtx b c x).currents = b.currents := rfl
@[simp] theorem putCtx_streams (c : Nat) (x : XltCtx) : (putCtx b c x).streams = b.streams := rfl
@[simp] theorem putCtx_links (c : Nat) (x : XltCtx) : (putCtx b c x).links = b.links := rfl
@[simp] theorem putCtx_ranges (c : Nat) (x : XltCtx) : (putCtx b c x).ranges = b.ranges := rfl
@[simp] theorem putCtx_dups (c : Nat) (x : XltCtx) : (putCtx b c x).dups = b.dups := rfl
@[simp] theorem putCtx_unknown (c : Nat) (x : XltCtx) : (putCtx b c x).unknown = b.unknown := rfl
@[simp] theorem putCtx_codecs (c : Nat) (x : XltCtx) : (putCtx b c x).codecs = b.codecs := rfl
@[simp] theorem putCtx_codOffers (c : Nat) (x : XltCtx) : (putCtx b c x).codOffers = b.codOffers := rfl
@[simp] theorem putCtx_arbiters (c : Nat) (x : XltCtx) : (putCtx b c x).arbiters = b.arbiters := rfl
@[simp] theorem putCtx_seam (c : Nat) (x : XltCtx) : (putCtx b c x).seam = b.seam := rfl
@[simp] theorem putCtx_host (c : Nat) (x : XltCtx) : (putCtx b c x).host = b.host := rfl
@[simp] theorem putCtx_job (c : Nat) (x : XltCtx) : (putCtx b c x).job = b.job := rfl
@[simp] theorem putCtx_start (c : Nat) (x : XltCtx) : (putCtx b c x).start = b.start := rfl
@[simp] theorem putCtx_power (c : Nat) (x : XltCtx) : (putCtx b c x).power = b.power := rfl
@[simp] theorem putCtx_sec (c : Nat) (x : XltCtx) : (putCtx b c x).sec = b.sec := rfl
@[simp] theorem putCtx_vaneAuto (c : Nat) (x : XltCtx) : (putCtx b c x).vaneAuto = b.vaneAuto := rfl
@[simp] theorem putCtx_vaneJobs (c : Nat) (x : XltCtx) : (putCtx b c x).vaneJobs = b.vaneJobs := rfl
@[simp] theorem putCtx_setNow (c : Nat) (x : XltCtx) : (putCtx b c x).setNow = b.setNow := rfl
@[simp] theorem putCtx_fresh (c : Nat) (x : XltCtx) : (putCtx b c x).fresh = b.fresh := rfl

/-! ## putLink -/

@[simp] theorem putLink_evt (l : Nat) (x : Link) : (putLink b l x).evt = b.evt := rfl
@[simp] theorem putLink_lee (l : Nat) (x : Link) : (putLink b l x).lee = b.lee := rfl
@[simp] theorem putLink_eddies (l : Nat) (x : Link) : (putLink b l x).eddies = b.eddies := rfl
@[simp] theorem putLink_gates (l : Nat) (x : Link) : (putLink b l x).gates = b.gates := rfl
@[simp] theorem putLink_gateMsgs (l : Nat) (x : Link) : (putLink b l x).gateMsgs = b.gateMsgs := rfl
@[simp] theorem putLink_feeds (l : Nat) (x : Link) : (putLink b l x).feeds = b.feeds := rfl
@[simp] theorem putLink_ports (l : Nat) (x : Link) : (putLink b l x).ports = b.ports := rfl
@[simp] theorem putLink_currents (l : Nat) (x : Link) : (putLink b l x).currents = b.currents := rfl
@[simp] theorem putLink_streams (l : Nat) (x : Link) : (putLink b l x).streams = b.streams := rfl
@[simp] theorem putLink_ctxs (l : Nat) (x : Link) : (putLink b l x).ctxs = b.ctxs := rfl
@[simp] theorem putLink_ranges (l : Nat) (x : Link) : (putLink b l x).ranges = b.ranges := rfl
@[simp] theorem putLink_dups (l : Nat) (x : Link) : (putLink b l x).dups = b.dups := rfl
@[simp] theorem putLink_unknown (l : Nat) (x : Link) : (putLink b l x).unknown = b.unknown := rfl
@[simp] theorem putLink_codecs (l : Nat) (x : Link) : (putLink b l x).codecs = b.codecs := rfl
@[simp] theorem putLink_codOffers (l : Nat) (x : Link) : (putLink b l x).codOffers = b.codOffers := rfl
@[simp] theorem putLink_arbiters (l : Nat) (x : Link) : (putLink b l x).arbiters = b.arbiters := rfl
@[simp] theorem putLink_seam (l : Nat) (x : Link) : (putLink b l x).seam = b.seam := rfl
@[simp] theorem putLink_host (l : Nat) (x : Link) : (putLink b l x).host = b.host := rfl
@[simp] theorem putLink_job (l : Nat) (x : Link) : (putLink b l x).job = b.job := rfl
@[simp] theorem putLink_start (l : Nat) (x : Link) : (putLink b l x).start = b.start := rfl
@[simp] theorem putLink_power (l : Nat) (x : Link) : (putLink b l x).power = b.power := rfl
@[simp] theorem putLink_sec (l : Nat) (x : Link) : (putLink b l x).sec = b.sec := rfl
@[simp] theorem putLink_vaneAuto (l : Nat) (x : Link) : (putLink b l x).vaneAuto = b.vaneAuto := rfl
@[simp] theorem putLink_vaneJobs (l : Nat) (x : Link) : (putLink b l x).vaneJobs = b.vaneJobs := rfl
@[simp] theorem putLink_setNow (l : Nat) (x : Link) : (putLink b l x).setNow = b.setNow := rfl
@[simp] theorem putLink_fresh (l : Nat) (x : Link) : (putLink b l x).fresh = b.fresh := rfl

/-! ## putRange -/

@[simp] theorem putRange_evt (r : Nat) (x : LRange) : (putRange b r x).evt = b.evt := rfl
@[simp] theorem putRange_lee (r : Nat) (x : LRange) : (putRange b r x).lee = b.lee := rfl
@[simp] theorem putRange_eddies (r : Nat) (x : LRange) : (putRange b r x).eddies = b.eddies := rfl
@[simp] theorem putRange_gates (r : Nat) (x : LRange) : (putRange b r x).gates = b.gates := rfl
@[simp] theorem putRange_gateMsgs (r : Nat) (x : LRange) : (putRange b r x).gateMsgs = b.gateMsgs := rfl
@[simp] theorem putRange_feeds (r : Nat) (x : LRange) : (putRange b r x).feeds = b.feeds := rfl
@[simp] theorem putRange_ports (r : Nat) (x : LRange) : (putRange b r x).ports = b.ports := rfl
@[simp] theorem putRange_currents (r : Nat) (x : LRange) : (putRange b r x).currents = b.currents := rfl
@[simp] theorem putRange_streams (r : Nat) (x : LRange) : (putRange b r x).streams = b.streams := rfl
@[simp] theorem putRange_ctxs (r : Nat) (x : LRange) : (putRange b r x).ctxs = b.ctxs := rfl
@[simp] theorem putRange_links (r : Nat) (x : LRange) : (putRange b r x).links = b.links := rfl
@[simp] theorem putRange_dups (r : Nat) (x : LRange) : (putRange b r x).dups = b.dups := rfl
@[simp] theorem putRange_unknown (r : Nat) (x : LRange) : (putRange b r x).unknown = b.unknown := rfl
@[simp] theorem putRange_codecs (r : Nat) (x : LRange) : (putRange b r x).codecs = b.codecs := rfl
@[simp] theorem putRange_codOffers (r : Nat) (x : LRange) : (putRange b r x).codOffers = b.codOffers := rfl
@[simp] theorem putRange_arbiters (r : Nat) (x : LRange) : (putRange b r x).arbiters = b.arbiters := rfl
@[simp] theorem putRange_seam (r : Nat) (x : LRange) : (putRange b r x).seam = b.seam := rfl
@[simp] theorem putRange_host (r : Nat) (x : LRange) : (putRange b r x).host = b.host := rfl
@[simp] theorem putRange_job (r : Nat) (x : LRange) : (putRange b r x).job = b.job := rfl
@[simp] theorem putRange_start (r : Nat) (x : LRange) : (putRange b r x).start = b.start := rfl
@[simp] theorem putRange_power (r : Nat) (x : LRange) : (putRange b r x).power = b.power := rfl
@[simp] theorem putRange_sec (r : Nat) (x : LRange) : (putRange b r x).sec = b.sec := rfl
@[simp] theorem putRange_vaneAuto (r : Nat) (x : LRange) : (putRange b r x).vaneAuto = b.vaneAuto := rfl
@[simp] theorem putRange_vaneJobs (r : Nat) (x : LRange) : (putRange b r x).vaneJobs = b.vaneJobs := rfl
@[simp] theorem putRange_setNow (r : Nat) (x : LRange) : (putRange b r x).setNow = b.setNow := rfl
@[simp] theorem putRange_fresh (r : Nat) (x : LRange) : (putRange b r x).fresh = b.fresh := rfl

/-! ## putCodec -/

@[simp] theorem putCodec_evt (u : Nat) (x : Codec) : (putCodec b u x).evt = b.evt := rfl
@[simp] theorem putCodec_lee (u : Nat) (x : Codec) : (putCodec b u x).lee = b.lee := rfl
@[simp] theorem putCodec_eddies (u : Nat) (x : Codec) : (putCodec b u x).eddies = b.eddies := rfl
@[simp] theorem putCodec_gates (u : Nat) (x : Codec) : (putCodec b u x).gates = b.gates := rfl
@[simp] theorem putCodec_gateMsgs (u : Nat) (x : Codec) : (putCodec b u x).gateMsgs = b.gateMsgs := rfl
@[simp] theorem putCodec_feeds (u : Nat) (x : Codec) : (putCodec b u x).feeds = b.feeds := rfl
@[simp] theorem putCodec_ports (u : Nat) (x : Codec) : (putCodec b u x).ports = b.ports := rfl
@[simp] theorem putCodec_currents (u : Nat) (x : Codec) : (putCodec b u x).currents = b.currents := rfl
@[simp] theorem putCodec_streams (u : Nat) (x : Codec) : (putCodec b u x).streams = b.streams := rfl
@[simp] theorem putCodec_ctxs (u : Nat) (x : Codec) : (putCodec b u x).ctxs = b.ctxs := rfl
@[simp] theorem putCodec_links (u : Nat) (x : Codec) : (putCodec b u x).links = b.links := rfl
@[simp] theorem putCodec_ranges (u : Nat) (x : Codec) : (putCodec b u x).ranges = b.ranges := rfl
@[simp] theorem putCodec_dups (u : Nat) (x : Codec) : (putCodec b u x).dups = b.dups := rfl
@[simp] theorem putCodec_unknown (u : Nat) (x : Codec) : (putCodec b u x).unknown = b.unknown := rfl
@[simp] theorem putCodec_codOffers (u : Nat) (x : Codec) : (putCodec b u x).codOffers = b.codOffers := rfl
@[simp] theorem putCodec_arbiters (u : Nat) (x : Codec) : (putCodec b u x).arbiters = b.arbiters := rfl
@[simp] theorem putCodec_seam (u : Nat) (x : Codec) : (putCodec b u x).seam = b.seam := rfl
@[simp] theorem putCodec_host (u : Nat) (x : Codec) : (putCodec b u x).host = b.host := rfl
@[simp] theorem putCodec_job (u : Nat) (x : Codec) : (putCodec b u x).job = b.job := rfl
@[simp] theorem putCodec_start (u : Nat) (x : Codec) : (putCodec b u x).start = b.start := rfl
@[simp] theorem putCodec_power (u : Nat) (x : Codec) : (putCodec b u x).power = b.power := rfl
@[simp] theorem putCodec_sec (u : Nat) (x : Codec) : (putCodec b u x).sec = b.sec := rfl
@[simp] theorem putCodec_vaneAuto (u : Nat) (x : Codec) : (putCodec b u x).vaneAuto = b.vaneAuto := rfl
@[simp] theorem putCodec_vaneJobs (u : Nat) (x : Codec) : (putCodec b u x).vaneJobs = b.vaneJobs := rfl
@[simp] theorem putCodec_setNow (u : Nat) (x : Codec) : (putCodec b u x).setNow = b.setNow := rfl
@[simp] theorem putCodec_fresh (u : Nat) (x : Codec) : (putCodec b u x).fresh = b.fresh := rfl

/-! ## putFeed -/

@[simp] theorem putFeed_evt (i : Nat) (x : Feed) : (putFeed b i x).evt = b.evt := rfl
@[simp] theorem putFeed_lee (i : Nat) (x : Feed) : (putFeed b i x).lee = b.lee := rfl
@[simp] theorem putFeed_eddies (i : Nat) (x : Feed) : (putFeed b i x).eddies = b.eddies := rfl
@[simp] theorem putFeed_gates (i : Nat) (x : Feed) : (putFeed b i x).gates = b.gates := rfl
@[simp] theorem putFeed_gateMsgs (i : Nat) (x : Feed) : (putFeed b i x).gateMsgs = b.gateMsgs := rfl
@[simp] theorem putFeed_ports (i : Nat) (x : Feed) : (putFeed b i x).ports = b.ports := rfl
@[simp] theorem putFeed_currents (i : Nat) (x : Feed) : (putFeed b i x).currents = b.currents := rfl
@[simp] theorem putFeed_streams (i : Nat) (x : Feed) : (putFeed b i x).streams = b.streams := rfl
@[simp] theorem putFeed_ctxs (i : Nat) (x : Feed) : (putFeed b i x).ctxs = b.ctxs := rfl
@[simp] theorem putFeed_links (i : Nat) (x : Feed) : (putFeed b i x).links = b.links := rfl
@[simp] theorem putFeed_ranges (i : Nat) (x : Feed) : (putFeed b i x).ranges = b.ranges := rfl
@[simp] theorem putFeed_dups (i : Nat) (x : Feed) : (putFeed b i x).dups = b.dups := rfl
@[simp] theorem putFeed_unknown (i : Nat) (x : Feed) : (putFeed b i x).unknown = b.unknown := rfl
@[simp] theorem putFeed_codecs (i : Nat) (x : Feed) : (putFeed b i x).codecs = b.codecs := rfl
@[simp] theorem putFeed_codOffers (i : Nat) (x : Feed) : (putFeed b i x).codOffers = b.codOffers := rfl
@[simp] theorem putFeed_arbiters (i : Nat) (x : Feed) : (putFeed b i x).arbiters = b.arbiters := rfl
@[simp] theorem putFeed_seam (i : Nat) (x : Feed) : (putFeed b i x).seam = b.seam := rfl
@[simp] theorem putFeed_host (i : Nat) (x : Feed) : (putFeed b i x).host = b.host := rfl
@[simp] theorem putFeed_job (i : Nat) (x : Feed) : (putFeed b i x).job = b.job := rfl
@[simp] theorem putFeed_start (i : Nat) (x : Feed) : (putFeed b i x).start = b.start := rfl
@[simp] theorem putFeed_power (i : Nat) (x : Feed) : (putFeed b i x).power = b.power := rfl
@[simp] theorem putFeed_sec (i : Nat) (x : Feed) : (putFeed b i x).sec = b.sec := rfl
@[simp] theorem putFeed_vaneAuto (i : Nat) (x : Feed) : (putFeed b i x).vaneAuto = b.vaneAuto := rfl
@[simp] theorem putFeed_vaneJobs (i : Nat) (x : Feed) : (putFeed b i x).vaneJobs = b.vaneJobs := rfl
@[simp] theorem putFeed_setNow (i : Nat) (x : Feed) : (putFeed b i x).setNow = b.setNow := rfl
@[simp] theorem putFeed_fresh (i : Nat) (x : Feed) : (putFeed b i x).fresh = b.fresh := rfl

/-! ## putPort -/

@[simp] theorem putPort_evt (f : Nat) (x : Port) : (putPort b f x).evt = b.evt := rfl
@[simp] theorem putPort_lee (f : Nat) (x : Port) : (putPort b f x).lee = b.lee := rfl
@[simp] theorem putPort_eddies (f : Nat) (x : Port) : (putPort b f x).eddies = b.eddies := rfl
@[simp] theorem putPort_gates (f : Nat) (x : Port) : (putPort b f x).gates = b.gates := rfl
@[simp] theorem putPort_gateMsgs (f : Nat) (x : Port) : (putPort b f x).gateMsgs = b.gateMsgs := rfl
@[simp] theorem putPort_feeds (f : Nat) (x : Port) : (putPort b f x).feeds = b.feeds := rfl
@[simp] theorem putPort_currents (f : Nat) (x : Port) : (putPort b f x).currents = b.currents := rfl
@[simp] theorem putPort_streams (f : Nat) (x : Port) : (putPort b f x).streams = b.streams := rfl
@[simp] theorem putPort_ctxs (f : Nat) (x : Port) : (putPort b f x).ctxs = b.ctxs := rfl
@[simp] theorem putPort_links (f : Nat) (x : Port) : (putPort b f x).links = b.links := rfl
@[simp] theorem putPort_ranges (f : Nat) (x : Port) : (putPort b f x).ranges = b.ranges := rfl
@[simp] theorem putPort_dups (f : Nat) (x : Port) : (putPort b f x).dups = b.dups := rfl
@[simp] theorem putPort_unknown (f : Nat) (x : Port) : (putPort b f x).unknown = b.unknown := rfl
@[simp] theorem putPort_codecs (f : Nat) (x : Port) : (putPort b f x).codecs = b.codecs := rfl
@[simp] theorem putPort_codOffers (f : Nat) (x : Port) : (putPort b f x).codOffers = b.codOffers := rfl
@[simp] theorem putPort_arbiters (f : Nat) (x : Port) : (putPort b f x).arbiters = b.arbiters := rfl
@[simp] theorem putPort_seam (f : Nat) (x : Port) : (putPort b f x).seam = b.seam := rfl
@[simp] theorem putPort_host (f : Nat) (x : Port) : (putPort b f x).host = b.host := rfl
@[simp] theorem putPort_job (f : Nat) (x : Port) : (putPort b f x).job = b.job := rfl
@[simp] theorem putPort_start (f : Nat) (x : Port) : (putPort b f x).start = b.start := rfl
@[simp] theorem putPort_power (f : Nat) (x : Port) : (putPort b f x).power = b.power := rfl
@[simp] theorem putPort_sec (f : Nat) (x : Port) : (putPort b f x).sec = b.sec := rfl
@[simp] theorem putPort_vaneAuto (f : Nat) (x : Port) : (putPort b f x).vaneAuto = b.vaneAuto := rfl
@[simp] theorem putPort_vaneJobs (f : Nat) (x : Port) : (putPort b f x).vaneJobs = b.vaneJobs := rfl
@[simp] theorem putPort_setNow (f : Nat) (x : Port) : (putPort b f x).setNow = b.setNow := rfl
@[simp] theorem putPort_fresh (f : Nat) (x : Port) : (putPort b f x).fresh = b.fresh := rfl

/-! ## putRing -/

@[simp] theorem putRing_evt (r : Nat) (x : Ring) : (putRing b r x).evt = b.evt := rfl
@[simp] theorem putRing_lee (r : Nat) (x : Ring) : (putRing b r x).lee = b.lee := rfl
@[simp] theorem putRing_eddies (r : Nat) (x : Ring) : (putRing b r x).eddies = b.eddies := rfl
@[simp] theorem putRing_gates (r : Nat) (x : Ring) : (putRing b r x).gates = b.gates := rfl
@[simp] theorem putRing_gateMsgs (r : Nat) (x : Ring) : (putRing b r x).gateMsgs = b.gateMsgs := rfl
@[simp] theorem putRing_feeds (r : Nat) (x : Ring) : (putRing b r x).feeds = b.feeds := rfl
@[simp] theorem putRing_ports (r : Nat) (x : Ring) : (putRing b r x).ports = b.ports := rfl
@[simp] theorem putRing_currents (r : Nat) (x : Ring) : (putRing b r x).currents = b.currents := rfl
@[simp] theorem putRing_streams (r : Nat) (x : Ring) : (putRing b r x).streams = b.streams := rfl
@[simp] theorem putRing_ctxs (r : Nat) (x : Ring) : (putRing b r x).ctxs = b.ctxs := rfl
@[simp] theorem putRing_links (r : Nat) (x : Ring) : (putRing b r x).links = b.links := rfl
@[simp] theorem putRing_ranges (r : Nat) (x : Ring) : (putRing b r x).ranges = b.ranges := rfl
@[simp] theorem putRing_dups (r : Nat) (x : Ring) : (putRing b r x).dups = b.dups := rfl
@[simp] theorem putRing_unknown (r : Nat) (x : Ring) : (putRing b r x).unknown = b.unknown := rfl
@[simp] theorem putRing_codecs (r : Nat) (x : Ring) : (putRing b r x).codecs = b.codecs := rfl
@[simp] theorem putRing_codOffers (r : Nat) (x : Ring) : (putRing b r x).codOffers = b.codOffers := rfl
@[simp] theorem putRing_arbiters (r : Nat) (x : Ring) : (putRing b r x).arbiters = b.arbiters := rfl
@[simp] theorem putRing_seam (r : Nat) (x : Ring) : (putRing b r x).seam = b.seam := rfl
@[simp] theorem putRing_job (r : Nat) (x : Ring) : (putRing b r x).job = b.job := rfl
@[simp] theorem putRing_start (r : Nat) (x : Ring) : (putRing b r x).start = b.start := rfl
@[simp] theorem putRing_power (r : Nat) (x : Ring) : (putRing b r x).power = b.power := rfl
@[simp] theorem putRing_sec (r : Nat) (x : Ring) : (putRing b r x).sec = b.sec := rfl
@[simp] theorem putRing_vaneAuto (r : Nat) (x : Ring) : (putRing b r x).vaneAuto = b.vaneAuto := rfl
@[simp] theorem putRing_vaneJobs (r : Nat) (x : Ring) : (putRing b r x).vaneJobs = b.vaneJobs := rfl
@[simp] theorem putRing_setNow (r : Nat) (x : Ring) : (putRing b r x).setNow = b.setNow := rfl
@[simp] theorem putRing_fresh (r : Nat) (x : Ring) : (putRing b r x).fresh = b.fresh := rfl

/-! ## putGale -/

@[simp] theorem putGale_evt (n : Nat) (x : Gale) : (putGale b n x).evt = b.evt := rfl
@[simp] theorem putGale_lee (n : Nat) (x : Gale) : (putGale b n x).lee = b.lee := rfl
@[simp] theorem putGale_eddies (n : Nat) (x : Gale) : (putGale b n x).eddies = b.eddies := rfl
@[simp] theorem putGale_gates (n : Nat) (x : Gale) : (putGale b n x).gates = b.gates := rfl
@[simp] theorem putGale_gateMsgs (n : Nat) (x : Gale) : (putGale b n x).gateMsgs = b.gateMsgs := rfl
@[simp] theorem putGale_feeds (n : Nat) (x : Gale) : (putGale b n x).feeds = b.feeds := rfl
@[simp] theorem putGale_ports (n : Nat) (x : Gale) : (putGale b n x).ports = b.ports := rfl
@[simp] theorem putGale_currents (n : Nat) (x : Gale) : (putGale b n x).currents = b.currents := rfl
@[simp] theorem putGale_streams (n : Nat) (x : Gale) : (putGale b n x).streams = b.streams := rfl
@[simp] theorem putGale_ctxs (n : Nat) (x : Gale) : (putGale b n x).ctxs = b.ctxs := rfl
@[simp] theorem putGale_links (n : Nat) (x : Gale) : (putGale b n x).links = b.links := rfl
@[simp] theorem putGale_ranges (n : Nat) (x : Gale) : (putGale b n x).ranges = b.ranges := rfl
@[simp] theorem putGale_dups (n : Nat) (x : Gale) : (putGale b n x).dups = b.dups := rfl
@[simp] theorem putGale_unknown (n : Nat) (x : Gale) : (putGale b n x).unknown = b.unknown := rfl
@[simp] theorem putGale_codecs (n : Nat) (x : Gale) : (putGale b n x).codecs = b.codecs := rfl
@[simp] theorem putGale_codOffers (n : Nat) (x : Gale) : (putGale b n x).codOffers = b.codOffers := rfl
@[simp] theorem putGale_arbiters (n : Nat) (x : Gale) : (putGale b n x).arbiters = b.arbiters := rfl
@[simp] theorem putGale_seam (n : Nat) (x : Gale) : (putGale b n x).seam = b.seam := rfl
@[simp] theorem putGale_host (n : Nat) (x : Gale) : (putGale b n x).host = b.host := rfl
@[simp] theorem putGale_job (n : Nat) (x : Gale) : (putGale b n x).job = b.job := rfl
@[simp] theorem putGale_start (n : Nat) (x : Gale) : (putGale b n x).start = b.start := rfl
@[simp] theorem putGale_sec (n : Nat) (x : Gale) : (putGale b n x).sec = b.sec := rfl
@[simp] theorem putGale_vaneAuto (n : Nat) (x : Gale) : (putGale b n x).vaneAuto = b.vaneAuto := rfl
@[simp] theorem putGale_vaneJobs (n : Nat) (x : Gale) : (putGale b n x).vaneJobs = b.vaneJobs := rfl
@[simp] theorem putGale_setNow (n : Nat) (x : Gale) : (putGale b n x).setNow = b.setNow := rfl
@[simp] theorem putGale_fresh (n : Nat) (x : Gale) : (putGale b n x).fresh = b.fresh := rfl

/-! ## putBank -/

@[simp] theorem putBank_evt (e i : Nat) (x : Bank) : (putBank b e i x).evt = b.evt := rfl
@[simp] theorem putBank_eddies (e i : Nat) (x : Bank) : (putBank b e i x).eddies = b.eddies := rfl
@[simp] theorem putBank_gates (e i : Nat) (x : Bank) : (putBank b e i x).gates = b.gates := rfl
@[simp] theorem putBank_gateMsgs (e i : Nat) (x : Bank) : (putBank b e i x).gateMsgs = b.gateMsgs := rfl
@[simp] theorem putBank_feeds (e i : Nat) (x : Bank) : (putBank b e i x).feeds = b.feeds := rfl
@[simp] theorem putBank_ports (e i : Nat) (x : Bank) : (putBank b e i x).ports = b.ports := rfl
@[simp] theorem putBank_currents (e i : Nat) (x : Bank) : (putBank b e i x).currents = b.currents := rfl
@[simp] theorem putBank_streams (e i : Nat) (x : Bank) : (putBank b e i x).streams = b.streams := rfl
@[simp] theorem putBank_ctxs (e i : Nat) (x : Bank) : (putBank b e i x).ctxs = b.ctxs := rfl
@[simp] theorem putBank_links (e i : Nat) (x : Bank) : (putBank b e i x).links = b.links := rfl
@[simp] theorem putBank_ranges (e i : Nat) (x : Bank) : (putBank b e i x).ranges = b.ranges := rfl
@[simp] theorem putBank_dups (e i : Nat) (x : Bank) : (putBank b e i x).dups = b.dups := rfl
@[simp] theorem putBank_unknown (e i : Nat) (x : Bank) : (putBank b e i x).unknown = b.unknown := rfl
@[simp] theorem putBank_codecs (e i : Nat) (x : Bank) : (putBank b e i x).codecs = b.codecs := rfl
@[simp] theorem putBank_codOffers (e i : Nat) (x : Bank) : (putBank b e i x).codOffers = b.codOffers := rfl
@[simp] theorem putBank_arbiters (e i : Nat) (x : Bank) : (putBank b e i x).arbiters = b.arbiters := rfl
@[simp] theorem putBank_seam (e i : Nat) (x : Bank) : (putBank b e i x).seam = b.seam := rfl
@[simp] theorem putBank_host (e i : Nat) (x : Bank) : (putBank b e i x).host = b.host := rfl
@[simp] theorem putBank_job (e i : Nat) (x : Bank) : (putBank b e i x).job = b.job := rfl
@[simp] theorem putBank_start (e i : Nat) (x : Bank) : (putBank b e i x).start = b.start := rfl
@[simp] theorem putBank_power (e i : Nat) (x : Bank) : (putBank b e i x).power = b.power := rfl
@[simp] theorem putBank_sec (e i : Nat) (x : Bank) : (putBank b e i x).sec = b.sec := rfl
@[simp] theorem putBank_vaneAuto (e i : Nat) (x : Bank) : (putBank b e i x).vaneAuto = b.vaneAuto := rfl
@[simp] theorem putBank_vaneJobs (e i : Nat) (x : Bank) : (putBank b e i x).vaneJobs = b.vaneJobs := rfl
@[simp] theorem putBank_setNow (e i : Nat) (x : Bank) : (putBank b e i x).setNow = b.setNow := rfl
@[simp] theorem putBank_fresh (e i : Nat) (x : Bank) : (putBank b e i x).fresh = b.fresh := rfl

/-! ## putRegion -/

@[simp] theorem putRegion_evt (r : Nat) (x : Region) : (putRegion b r x).evt = b.evt := rfl
@[simp] theorem putRegion_eddies (r : Nat) (x : Region) : (putRegion b r x).eddies = b.eddies := rfl
@[simp] theorem putRegion_gates (r : Nat) (x : Region) : (putRegion b r x).gates = b.gates := rfl
@[simp] theorem putRegion_gateMsgs (r : Nat) (x : Region) : (putRegion b r x).gateMsgs = b.gateMsgs := rfl
@[simp] theorem putRegion_feeds (r : Nat) (x : Region) : (putRegion b r x).feeds = b.feeds := rfl
@[simp] theorem putRegion_ports (r : Nat) (x : Region) : (putRegion b r x).ports = b.ports := rfl
@[simp] theorem putRegion_currents (r : Nat) (x : Region) : (putRegion b r x).currents = b.currents := rfl
@[simp] theorem putRegion_streams (r : Nat) (x : Region) : (putRegion b r x).streams = b.streams := rfl
@[simp] theorem putRegion_ctxs (r : Nat) (x : Region) : (putRegion b r x).ctxs = b.ctxs := rfl
@[simp] theorem putRegion_links (r : Nat) (x : Region) : (putRegion b r x).links = b.links := rfl
@[simp] theorem putRegion_ranges (r : Nat) (x : Region) : (putRegion b r x).ranges = b.ranges := rfl
@[simp] theorem putRegion_dups (r : Nat) (x : Region) : (putRegion b r x).dups = b.dups := rfl
@[simp] theorem putRegion_unknown (r : Nat) (x : Region) : (putRegion b r x).unknown = b.unknown := rfl
@[simp] theorem putRegion_codecs (r : Nat) (x : Region) : (putRegion b r x).codecs = b.codecs := rfl
@[simp] theorem putRegion_codOffers (r : Nat) (x : Region) : (putRegion b r x).codOffers = b.codOffers := rfl
@[simp] theorem putRegion_arbiters (r : Nat) (x : Region) : (putRegion b r x).arbiters = b.arbiters := rfl
@[simp] theorem putRegion_seam (r : Nat) (x : Region) : (putRegion b r x).seam = b.seam := rfl
@[simp] theorem putRegion_host (r : Nat) (x : Region) : (putRegion b r x).host = b.host := rfl
@[simp] theorem putRegion_job (r : Nat) (x : Region) : (putRegion b r x).job = b.job := rfl
@[simp] theorem putRegion_start (r : Nat) (x : Region) : (putRegion b r x).start = b.start := rfl
@[simp] theorem putRegion_power (r : Nat) (x : Region) : (putRegion b r x).power = b.power := rfl
@[simp] theorem putRegion_sec (r : Nat) (x : Region) : (putRegion b r x).sec = b.sec := rfl
@[simp] theorem putRegion_vaneAuto (r : Nat) (x : Region) : (putRegion b r x).vaneAuto = b.vaneAuto := rfl
@[simp] theorem putRegion_vaneJobs (r : Nat) (x : Region) : (putRegion b r x).vaneJobs = b.vaneJobs := rfl
@[simp] theorem putRegion_setNow (r : Nat) (x : Region) : (putRegion b r x).setNow = b.setNow := rfl
@[simp] theorem putRegion_fresh (r : Nat) (x : Region) : (putRegion b r x).fresh = b.fresh := rfl

/-! ## updCur -/

@[simp] theorem updCur_evt (n : Nat) (f : Current → Current) : (updCur b n f).evt = b.evt := rfl
@[simp] theorem updCur_lee (n : Nat) (f : Current → Current) : (updCur b n f).lee = b.lee := rfl
@[simp] theorem updCur_eddies (n : Nat) (f : Current → Current) : (updCur b n f).eddies = b.eddies := rfl
@[simp] theorem updCur_gates (n : Nat) (f : Current → Current) : (updCur b n f).gates = b.gates := rfl
@[simp] theorem updCur_gateMsgs (n : Nat) (f : Current → Current) : (updCur b n f).gateMsgs = b.gateMsgs := rfl
@[simp] theorem updCur_feeds (n : Nat) (f : Current → Current) : (updCur b n f).feeds = b.feeds := rfl
@[simp] theorem updCur_ports (n : Nat) (f : Current → Current) : (updCur b n f).ports = b.ports := rfl
@[simp] theorem updCur_streams (n : Nat) (f : Current → Current) : (updCur b n f).streams = b.streams := rfl
@[simp] theorem updCur_ctxs (n : Nat) (f : Current → Current) : (updCur b n f).ctxs = b.ctxs := rfl
@[simp] theorem updCur_links (n : Nat) (f : Current → Current) : (updCur b n f).links = b.links := rfl
@[simp] theorem updCur_ranges (n : Nat) (f : Current → Current) : (updCur b n f).ranges = b.ranges := rfl
@[simp] theorem updCur_dups (n : Nat) (f : Current → Current) : (updCur b n f).dups = b.dups := rfl
@[simp] theorem updCur_unknown (n : Nat) (f : Current → Current) : (updCur b n f).unknown = b.unknown := rfl
@[simp] theorem updCur_codecs (n : Nat) (f : Current → Current) : (updCur b n f).codecs = b.codecs := rfl
@[simp] theorem updCur_codOffers (n : Nat) (f : Current → Current) : (updCur b n f).codOffers = b.codOffers := rfl
@[simp] theorem updCur_arbiters (n : Nat) (f : Current → Current) : (updCur b n f).arbiters = b.arbiters := rfl
@[simp] theorem updCur_seam (n : Nat) (f : Current → Current) : (updCur b n f).seam = b.seam := rfl
@[simp] theorem updCur_host (n : Nat) (f : Current → Current) : (updCur b n f).host = b.host := rfl
@[simp] theorem updCur_job (n : Nat) (f : Current → Current) : (updCur b n f).job = b.job := rfl
@[simp] theorem updCur_start (n : Nat) (f : Current → Current) : (updCur b n f).start = b.start := rfl
@[simp] theorem updCur_power (n : Nat) (f : Current → Current) : (updCur b n f).power = b.power := rfl
@[simp] theorem updCur_sec (n : Nat) (f : Current → Current) : (updCur b n f).sec = b.sec := rfl
@[simp] theorem updCur_vaneAuto (n : Nat) (f : Current → Current) : (updCur b n f).vaneAuto = b.vaneAuto := rfl
@[simp] theorem updCur_vaneJobs (n : Nat) (f : Current → Current) : (updCur b n f).vaneJobs = b.vaneJobs := rfl
@[simp] theorem updCur_setNow (n : Nat) (f : Current → Current) : (updCur b n f).setNow = b.setNow := rfl
@[simp] theorem updCur_fresh (n : Nat) (f : Current → Current) : (updCur b n f).fresh = b.fresh := rfl

/-! ## reportAs -/

@[simp] theorem reportAs_lee (source cls code : Nat) (d : BitVec 128) : (reportAs b source cls code d).lee = b.lee := rfl
@[simp] theorem reportAs_eddies (source cls code : Nat) (d : BitVec 128) : (reportAs b source cls code d).eddies = b.eddies := rfl
@[simp] theorem reportAs_gates (source cls code : Nat) (d : BitVec 128) : (reportAs b source cls code d).gates = b.gates := rfl
@[simp] theorem reportAs_gateMsgs (source cls code : Nat) (d : BitVec 128) : (reportAs b source cls code d).gateMsgs = b.gateMsgs := rfl
@[simp] theorem reportAs_feeds (source cls code : Nat) (d : BitVec 128) : (reportAs b source cls code d).feeds = b.feeds := rfl
@[simp] theorem reportAs_ports (source cls code : Nat) (d : BitVec 128) : (reportAs b source cls code d).ports = b.ports := rfl
@[simp] theorem reportAs_currents (source cls code : Nat) (d : BitVec 128) : (reportAs b source cls code d).currents = b.currents := rfl
@[simp] theorem reportAs_streams (source cls code : Nat) (d : BitVec 128) : (reportAs b source cls code d).streams = b.streams := rfl
@[simp] theorem reportAs_ctxs (source cls code : Nat) (d : BitVec 128) : (reportAs b source cls code d).ctxs = b.ctxs := rfl
@[simp] theorem reportAs_links (source cls code : Nat) (d : BitVec 128) : (reportAs b source cls code d).links = b.links := rfl
@[simp] theorem reportAs_ranges (source cls code : Nat) (d : BitVec 128) : (reportAs b source cls code d).ranges = b.ranges := rfl
@[simp] theorem reportAs_dups (source cls code : Nat) (d : BitVec 128) : (reportAs b source cls code d).dups = b.dups := rfl
@[simp] theorem reportAs_unknown (source cls code : Nat) (d : BitVec 128) : (reportAs b source cls code d).unknown = b.unknown := rfl
@[simp] theorem reportAs_codecs (source cls code : Nat) (d : BitVec 128) : (reportAs b source cls code d).codecs = b.codecs := rfl
@[simp] theorem reportAs_codOffers (source cls code : Nat) (d : BitVec 128) : (reportAs b source cls code d).codOffers = b.codOffers := rfl
@[simp] theorem reportAs_arbiters (source cls code : Nat) (d : BitVec 128) : (reportAs b source cls code d).arbiters = b.arbiters := rfl
@[simp] theorem reportAs_seam (source cls code : Nat) (d : BitVec 128) : (reportAs b source cls code d).seam = b.seam := rfl
@[simp] theorem reportAs_host (source cls code : Nat) (d : BitVec 128) : (reportAs b source cls code d).host = b.host := rfl
@[simp] theorem reportAs_job (source cls code : Nat) (d : BitVec 128) : (reportAs b source cls code d).job = b.job := rfl
@[simp] theorem reportAs_start (source cls code : Nat) (d : BitVec 128) : (reportAs b source cls code d).start = b.start := rfl
@[simp] theorem reportAs_power (source cls code : Nat) (d : BitVec 128) : (reportAs b source cls code d).power = b.power := rfl
@[simp] theorem reportAs_sec (source cls code : Nat) (d : BitVec 128) : (reportAs b source cls code d).sec = b.sec := rfl
@[simp] theorem reportAs_vaneAuto (source cls code : Nat) (d : BitVec 128) : (reportAs b source cls code d).vaneAuto = b.vaneAuto := rfl
@[simp] theorem reportAs_vaneJobs (source cls code : Nat) (d : BitVec 128) : (reportAs b source cls code d).vaneJobs = b.vaneJobs := rfl
@[simp] theorem reportAs_fresh (source cls code : Nat) (d : BitVec 128) : (reportAs b source cls code d).fresh = b.fresh := rfl

/-! ## noteSet -/

@[simp] theorem noteSet_evt (x : W1cBit) : (noteSet b x).evt = b.evt := rfl
@[simp] theorem noteSet_lee (x : W1cBit) : (noteSet b x).lee = b.lee := rfl
@[simp] theorem noteSet_eddies (x : W1cBit) : (noteSet b x).eddies = b.eddies := rfl
@[simp] theorem noteSet_gates (x : W1cBit) : (noteSet b x).gates = b.gates := rfl
@[simp] theorem noteSet_gateMsgs (x : W1cBit) : (noteSet b x).gateMsgs = b.gateMsgs := rfl
@[simp] theorem noteSet_feeds (x : W1cBit) : (noteSet b x).feeds = b.feeds := rfl
@[simp] theorem noteSet_ports (x : W1cBit) : (noteSet b x).ports = b.ports := rfl
@[simp] theorem noteSet_currents (x : W1cBit) : (noteSet b x).currents = b.currents := rfl
@[simp] theorem noteSet_streams (x : W1cBit) : (noteSet b x).streams = b.streams := rfl
@[simp] theorem noteSet_ctxs (x : W1cBit) : (noteSet b x).ctxs = b.ctxs := rfl
@[simp] theorem noteSet_links (x : W1cBit) : (noteSet b x).links = b.links := rfl
@[simp] theorem noteSet_ranges (x : W1cBit) : (noteSet b x).ranges = b.ranges := rfl
@[simp] theorem noteSet_dups (x : W1cBit) : (noteSet b x).dups = b.dups := rfl
@[simp] theorem noteSet_unknown (x : W1cBit) : (noteSet b x).unknown = b.unknown := rfl
@[simp] theorem noteSet_codecs (x : W1cBit) : (noteSet b x).codecs = b.codecs := rfl
@[simp] theorem noteSet_codOffers (x : W1cBit) : (noteSet b x).codOffers = b.codOffers := rfl
@[simp] theorem noteSet_arbiters (x : W1cBit) : (noteSet b x).arbiters = b.arbiters := rfl
@[simp] theorem noteSet_seam (x : W1cBit) : (noteSet b x).seam = b.seam := rfl
@[simp] theorem noteSet_host (x : W1cBit) : (noteSet b x).host = b.host := rfl
@[simp] theorem noteSet_job (x : W1cBit) : (noteSet b x).job = b.job := rfl
@[simp] theorem noteSet_start (x : W1cBit) : (noteSet b x).start = b.start := rfl
@[simp] theorem noteSet_power (x : W1cBit) : (noteSet b x).power = b.power := rfl
@[simp] theorem noteSet_sec (x : W1cBit) : (noteSet b x).sec = b.sec := rfl
@[simp] theorem noteSet_vaneAuto (x : W1cBit) : (noteSet b x).vaneAuto = b.vaneAuto := rfl
@[simp] theorem noteSet_vaneJobs (x : W1cBit) : (noteSet b x).vaneJobs = b.vaneJobs := rfl
@[simp] theorem noteSet_fresh (x : W1cBit) : (noteSet b x).fresh = b.fresh := rfl

/-! ## report -/

@[simp] theorem report_lee (source code : Nat) (d : BitVec 128) : (report b source code d).lee = b.lee := rfl
@[simp] theorem report_eddies (source code : Nat) (d : BitVec 128) : (report b source code d).eddies = b.eddies := rfl
@[simp] theorem report_gates (source code : Nat) (d : BitVec 128) : (report b source code d).gates = b.gates := rfl
@[simp] theorem report_gateMsgs (source code : Nat) (d : BitVec 128) : (report b source code d).gateMsgs = b.gateMsgs := rfl
@[simp] theorem report_feeds (source code : Nat) (d : BitVec 128) : (report b source code d).feeds = b.feeds := rfl
@[simp] theorem report_ports (source code : Nat) (d : BitVec 128) : (report b source code d).ports = b.ports := rfl
@[simp] theorem report_currents (source code : Nat) (d : BitVec 128) : (report b source code d).currents = b.currents := rfl
@[simp] theorem report_streams (source code : Nat) (d : BitVec 128) : (report b source code d).streams = b.streams := rfl
@[simp] theorem report_ctxs (source code : Nat) (d : BitVec 128) : (report b source code d).ctxs = b.ctxs := rfl
@[simp] theorem report_links (source code : Nat) (d : BitVec 128) : (report b source code d).links = b.links := rfl
@[simp] theorem report_ranges (source code : Nat) (d : BitVec 128) : (report b source code d).ranges = b.ranges := rfl
@[simp] theorem report_dups (source code : Nat) (d : BitVec 128) : (report b source code d).dups = b.dups := rfl
@[simp] theorem report_unknown (source code : Nat) (d : BitVec 128) : (report b source code d).unknown = b.unknown := rfl
@[simp] theorem report_codecs (source code : Nat) (d : BitVec 128) : (report b source code d).codecs = b.codecs := rfl
@[simp] theorem report_codOffers (source code : Nat) (d : BitVec 128) : (report b source code d).codOffers = b.codOffers := rfl
@[simp] theorem report_arbiters (source code : Nat) (d : BitVec 128) : (report b source code d).arbiters = b.arbiters := rfl
@[simp] theorem report_seam (source code : Nat) (d : BitVec 128) : (report b source code d).seam = b.seam := rfl
@[simp] theorem report_host (source code : Nat) (d : BitVec 128) : (report b source code d).host = b.host := rfl
@[simp] theorem report_job (source code : Nat) (d : BitVec 128) : (report b source code d).job = b.job := rfl
@[simp] theorem report_start (source code : Nat) (d : BitVec 128) : (report b source code d).start = b.start := rfl
@[simp] theorem report_power (source code : Nat) (d : BitVec 128) : (report b source code d).power = b.power := rfl
@[simp] theorem report_sec (source code : Nat) (d : BitVec 128) : (report b source code d).sec = b.sec := rfl
@[simp] theorem report_vaneAuto (source code : Nat) (d : BitVec 128) : (report b source code d).vaneAuto = b.vaneAuto := rfl
@[simp] theorem report_vaneJobs (source code : Nat) (d : BitVec 128) : (report b source code d).vaneJobs = b.vaneJobs := rfl
@[simp] theorem report_fresh (source code : Nat) (d : BitVec 128) : (report b source code d).fresh = b.fresh := rfl

/-! ## Records after they were put -/

@[simp] theorem getEddy_putEddy (i : Nat) (x : Eddy) : getEddy (putEddy b i x) i = x := Table.get_put_self ..

theorem getEddy_putEddy_ne {i j : Nat} (x : Eddy) (h : j ≠ i) : getEddy (putEddy b i x) j = getEddy b j :=
  Table.get_put_ne _ _ _ h

@[simp] theorem putEddy_putEddy (i : Nat) (x y : Eddy) : putEddy (putEddy b i x) i y = putEddy b i y := by
  simp [putEddy]

@[simp] theorem getGate_putGate (i : Nat) (x : Gate) : getGate (putGate b i x) i = x := Table.get_put_self ..

theorem getGate_putGate_ne {i j : Nat} (x : Gate) (h : j ≠ i) : getGate (putGate b i x) j = getGate b j :=
  Table.get_put_ne _ _ _ h

@[simp] theorem putGate_putGate (i : Nat) (x y : Gate) : putGate (putGate b i x) i y = putGate b i y := by
  simp [putGate]

@[simp] theorem getStream_putStream (i : Nat) (x : Stream) : getStream (putStream b i x) i = x := Table.get_put_self ..

theorem getStream_putStream_ne {i j : Nat} (x : Stream) (h : j ≠ i) : getStream (putStream b i x) j = getStream b j :=
  Table.get_put_ne _ _ _ h

@[simp] theorem putStream_putStream (i : Nat) (x y : Stream) : putStream (putStream b i x) i y = putStream b i y := by
  simp [putStream]

@[simp] theorem getCtx_putCtx (i : Nat) (x : XltCtx) : getCtx (putCtx b i x) i = x := Table.get_put_self ..

theorem getCtx_putCtx_ne {i j : Nat} (x : XltCtx) (h : j ≠ i) : getCtx (putCtx b i x) j = getCtx b j :=
  Table.get_put_ne _ _ _ h

@[simp] theorem putCtx_putCtx (i : Nat) (x y : XltCtx) : putCtx (putCtx b i x) i y = putCtx b i y := by
  simp [putCtx]

@[simp] theorem getLink_putLink (i : Nat) (x : Link) : getLink (putLink b i x) i = x := Table.get_put_self ..

theorem getLink_putLink_ne {i j : Nat} (x : Link) (h : j ≠ i) : getLink (putLink b i x) j = getLink b j :=
  Table.get_put_ne _ _ _ h

@[simp] theorem putLink_putLink (i : Nat) (x y : Link) : putLink (putLink b i x) i y = putLink b i y := by
  simp [putLink]

@[simp] theorem getRange_putRange (i : Nat) (x : LRange) : getRange (putRange b i x) i = x := Table.get_put_self ..

theorem getRange_putRange_ne {i j : Nat} (x : LRange) (h : j ≠ i) : getRange (putRange b i x) j = getRange b j :=
  Table.get_put_ne _ _ _ h

@[simp] theorem putRange_putRange (i : Nat) (x y : LRange) : putRange (putRange b i x) i y = putRange b i y := by
  simp [putRange]

@[simp] theorem getCodec_putCodec (i : Nat) (x : Codec) : getCodec (putCodec b i x) i = x := Table.get_put_self ..

theorem getCodec_putCodec_ne {i j : Nat} (x : Codec) (h : j ≠ i) : getCodec (putCodec b i x) j = getCodec b j :=
  Table.get_put_ne _ _ _ h

@[simp] theorem putCodec_putCodec (i : Nat) (x y : Codec) : putCodec (putCodec b i x) i y = putCodec b i y := by
  simp [putCodec]

@[simp] theorem getFeed_putFeed (i : Nat) (x : Feed) : getFeed (putFeed b i x) i = x := Table.get_put_self ..

theorem getFeed_putFeed_ne {i j : Nat} (x : Feed) (h : j ≠ i) : getFeed (putFeed b i x) j = getFeed b j :=
  Table.get_put_ne _ _ _ h

@[simp] theorem putFeed_putFeed (i : Nat) (x y : Feed) : putFeed (putFeed b i x) i y = putFeed b i y := by
  simp [putFeed]

@[simp] theorem getPort_putPort (i : Nat) (x : Port) : getPort (putPort b i x) i = x := Table.get_put_self ..

theorem getPort_putPort_ne {i j : Nat} (x : Port) (h : j ≠ i) : getPort (putPort b i x) j = getPort b j :=
  Table.get_put_ne _ _ _ h

@[simp] theorem putPort_putPort (i : Nat) (x y : Port) : putPort (putPort b i x) i y = putPort b i y := by
  simp [putPort]

@[simp] theorem getRing_putRing (i : Nat) (x : Ring) : getRing (putRing b i x) i = x := Table.get_put_self ..

theorem getRing_putRing_ne {i j : Nat} (x : Ring) (h : j ≠ i) : getRing (putRing b i x) j = getRing b j :=
  Table.get_put_ne _ _ _ h

@[simp] theorem putRing_putRing (i : Nat) (x y : Ring) : putRing (putRing b i x) i y = putRing b i y := by
  simp [putRing]

@[simp] theorem getGale_putGale (i : Nat) (x : Gale) : getGale (putGale b i x) i = x := Table.get_put_self ..

theorem getGale_putGale_ne {i j : Nat} (x : Gale) (h : j ≠ i) : getGale (putGale b i x) j = getGale b j :=
  Table.get_put_ne _ _ _ h

@[simp] theorem putGale_putGale (i : Nat) (x y : Gale) : putGale (putGale b i x) i y = putGale b i y := by
  simp [putGale]

@[simp] theorem getEddy_putGate (g : Nat) (x : Gate) (j : Nat) : getEddy (putGate b g x) j = getEddy b j := rfl
@[simp] theorem getEddy_putStream (i : Nat) (x : Stream) (j : Nat) : getEddy (putStream b i x) j = getEddy b j := rfl
@[simp] theorem getEddy_putCtx (c : Nat) (x : XltCtx) (j : Nat) : getEddy (putCtx b c x) j = getEddy b j := rfl
@[simp] theorem getEddy_putLink (l : Nat) (x : Link) (j : Nat) : getEddy (putLink b l x) j = getEddy b j := rfl
@[simp] theorem getEddy_putRange (r : Nat) (x : LRange) (j : Nat) : getEddy (putRange b r x) j = getEddy b j := rfl
@[simp] theorem getEddy_putCodec (u : Nat) (x : Codec) (j : Nat) : getEddy (putCodec b u x) j = getEddy b j := rfl
@[simp] theorem getEddy_putFeed (i : Nat) (x : Feed) (j : Nat) : getEddy (putFeed b i x) j = getEddy b j := rfl
@[simp] theorem getEddy_putPort (f : Nat) (x : Port) (j : Nat) : getEddy (putPort b f x) j = getEddy b j := rfl
@[simp] theorem getEddy_putRing (r : Nat) (x : Ring) (j : Nat) : getEddy (putRing b r x) j = getEddy b j := rfl
@[simp] theorem getEddy_putGale (n : Nat) (x : Gale) (j : Nat) : getEddy (putGale b n x) j = getEddy b j := rfl
@[simp] theorem getEddy_putBank (e i : Nat) (x : Bank) (j : Nat) : getEddy (putBank b e i x) j = getEddy b j := rfl
@[simp] theorem getEddy_putRegion (r : Nat) (x : Region) (j : Nat) : getEddy (putRegion b r x) j = getEddy b j := rfl
@[simp] theorem getEddy_updCur (n : Nat) (f : Current → Current) (j : Nat) : getEddy (updCur b n f) j = getEddy b j := rfl
@[simp] theorem getEddy_reportAs (source cls code : Nat) (d : BitVec 128) (j : Nat) : getEddy (reportAs b source cls code d) j = getEddy b j := rfl
@[simp] theorem getEddy_noteSet (x : W1cBit) (j : Nat) : getEddy (noteSet b x) j = getEddy b j := rfl
@[simp] theorem getEddy_report (source code : Nat) (d : BitVec 128) (j : Nat) : getEddy (report b source code d) j = getEddy b j := rfl
@[simp] theorem getGate_putEddy (e : Nat) (x : Eddy) (j : Nat) : getGate (putEddy b e x) j = getGate b j := rfl
@[simp] theorem getGate_putStream (i : Nat) (x : Stream) (j : Nat) : getGate (putStream b i x) j = getGate b j := rfl
@[simp] theorem getGate_putCtx (c : Nat) (x : XltCtx) (j : Nat) : getGate (putCtx b c x) j = getGate b j := rfl
@[simp] theorem getGate_putLink (l : Nat) (x : Link) (j : Nat) : getGate (putLink b l x) j = getGate b j := rfl
@[simp] theorem getGate_putRange (r : Nat) (x : LRange) (j : Nat) : getGate (putRange b r x) j = getGate b j := rfl
@[simp] theorem getGate_putCodec (u : Nat) (x : Codec) (j : Nat) : getGate (putCodec b u x) j = getGate b j := rfl
@[simp] theorem getGate_putFeed (i : Nat) (x : Feed) (j : Nat) : getGate (putFeed b i x) j = getGate b j := rfl
@[simp] theorem getGate_putPort (f : Nat) (x : Port) (j : Nat) : getGate (putPort b f x) j = getGate b j := rfl
@[simp] theorem getGate_putRing (r : Nat) (x : Ring) (j : Nat) : getGate (putRing b r x) j = getGate b j := rfl
@[simp] theorem getGate_putGale (n : Nat) (x : Gale) (j : Nat) : getGate (putGale b n x) j = getGate b j := rfl
@[simp] theorem getGate_putBank (e i : Nat) (x : Bank) (j : Nat) : getGate (putBank b e i x) j = getGate b j := rfl
@[simp] theorem getGate_putRegion (r : Nat) (x : Region) (j : Nat) : getGate (putRegion b r x) j = getGate b j := rfl
@[simp] theorem getGate_updCur (n : Nat) (f : Current → Current) (j : Nat) : getGate (updCur b n f) j = getGate b j := rfl
@[simp] theorem getGate_reportAs (source cls code : Nat) (d : BitVec 128) (j : Nat) : getGate (reportAs b source cls code d) j = getGate b j := rfl
@[simp] theorem getGate_noteSet (x : W1cBit) (j : Nat) : getGate (noteSet b x) j = getGate b j := rfl
@[simp] theorem getGate_report (source code : Nat) (d : BitVec 128) (j : Nat) : getGate (report b source code d) j = getGate b j := rfl
@[simp] theorem getStream_putEddy (e : Nat) (x : Eddy) (j : Nat) : getStream (putEddy b e x) j = getStream b j := rfl
@[simp] theorem getStream_putGate (g : Nat) (x : Gate) (j : Nat) : getStream (putGate b g x) j = getStream b j := rfl
@[simp] theorem getStream_putCtx (c : Nat) (x : XltCtx) (j : Nat) : getStream (putCtx b c x) j = getStream b j := rfl
@[simp] theorem getStream_putLink (l : Nat) (x : Link) (j : Nat) : getStream (putLink b l x) j = getStream b j := rfl
@[simp] theorem getStream_putRange (r : Nat) (x : LRange) (j : Nat) : getStream (putRange b r x) j = getStream b j := rfl
@[simp] theorem getStream_putCodec (u : Nat) (x : Codec) (j : Nat) : getStream (putCodec b u x) j = getStream b j := rfl
@[simp] theorem getStream_putFeed (i : Nat) (x : Feed) (j : Nat) : getStream (putFeed b i x) j = getStream b j := rfl
@[simp] theorem getStream_putPort (f : Nat) (x : Port) (j : Nat) : getStream (putPort b f x) j = getStream b j := rfl
@[simp] theorem getStream_putRing (r : Nat) (x : Ring) (j : Nat) : getStream (putRing b r x) j = getStream b j := rfl
@[simp] theorem getStream_putGale (n : Nat) (x : Gale) (j : Nat) : getStream (putGale b n x) j = getStream b j := rfl
@[simp] theorem getStream_putBank (e i : Nat) (x : Bank) (j : Nat) : getStream (putBank b e i x) j = getStream b j := rfl
@[simp] theorem getStream_putRegion (r : Nat) (x : Region) (j : Nat) : getStream (putRegion b r x) j = getStream b j := rfl
@[simp] theorem getStream_updCur (n : Nat) (f : Current → Current) (j : Nat) : getStream (updCur b n f) j = getStream b j := rfl
@[simp] theorem getStream_reportAs (source cls code : Nat) (d : BitVec 128) (j : Nat) : getStream (reportAs b source cls code d) j = getStream b j := rfl
@[simp] theorem getStream_noteSet (x : W1cBit) (j : Nat) : getStream (noteSet b x) j = getStream b j := rfl
@[simp] theorem getStream_report (source code : Nat) (d : BitVec 128) (j : Nat) : getStream (report b source code d) j = getStream b j := rfl
@[simp] theorem getCtx_putEddy (e : Nat) (x : Eddy) (j : Nat) : getCtx (putEddy b e x) j = getCtx b j := rfl
@[simp] theorem getCtx_putGate (g : Nat) (x : Gate) (j : Nat) : getCtx (putGate b g x) j = getCtx b j := rfl
@[simp] theorem getCtx_putStream (i : Nat) (x : Stream) (j : Nat) : getCtx (putStream b i x) j = getCtx b j := rfl
@[simp] theorem getCtx_putLink (l : Nat) (x : Link) (j : Nat) : getCtx (putLink b l x) j = getCtx b j := rfl
@[simp] theorem getCtx_putRange (r : Nat) (x : LRange) (j : Nat) : getCtx (putRange b r x) j = getCtx b j := rfl
@[simp] theorem getCtx_putCodec (u : Nat) (x : Codec) (j : Nat) : getCtx (putCodec b u x) j = getCtx b j := rfl
@[simp] theorem getCtx_putFeed (i : Nat) (x : Feed) (j : Nat) : getCtx (putFeed b i x) j = getCtx b j := rfl
@[simp] theorem getCtx_putPort (f : Nat) (x : Port) (j : Nat) : getCtx (putPort b f x) j = getCtx b j := rfl
@[simp] theorem getCtx_putRing (r : Nat) (x : Ring) (j : Nat) : getCtx (putRing b r x) j = getCtx b j := rfl
@[simp] theorem getCtx_putGale (n : Nat) (x : Gale) (j : Nat) : getCtx (putGale b n x) j = getCtx b j := rfl
@[simp] theorem getCtx_putBank (e i : Nat) (x : Bank) (j : Nat) : getCtx (putBank b e i x) j = getCtx b j := rfl
@[simp] theorem getCtx_putRegion (r : Nat) (x : Region) (j : Nat) : getCtx (putRegion b r x) j = getCtx b j := rfl
@[simp] theorem getCtx_updCur (n : Nat) (f : Current → Current) (j : Nat) : getCtx (updCur b n f) j = getCtx b j := rfl
@[simp] theorem getCtx_reportAs (source cls code : Nat) (d : BitVec 128) (j : Nat) : getCtx (reportAs b source cls code d) j = getCtx b j := rfl
@[simp] theorem getCtx_noteSet (x : W1cBit) (j : Nat) : getCtx (noteSet b x) j = getCtx b j := rfl
@[simp] theorem getCtx_report (source code : Nat) (d : BitVec 128) (j : Nat) : getCtx (report b source code d) j = getCtx b j := rfl
@[simp] theorem getLink_putEddy (e : Nat) (x : Eddy) (j : Nat) : getLink (putEddy b e x) j = getLink b j := rfl
@[simp] theorem getLink_putGate (g : Nat) (x : Gate) (j : Nat) : getLink (putGate b g x) j = getLink b j := rfl
@[simp] theorem getLink_putStream (i : Nat) (x : Stream) (j : Nat) : getLink (putStream b i x) j = getLink b j := rfl
@[simp] theorem getLink_putCtx (c : Nat) (x : XltCtx) (j : Nat) : getLink (putCtx b c x) j = getLink b j := rfl
@[simp] theorem getLink_putRange (r : Nat) (x : LRange) (j : Nat) : getLink (putRange b r x) j = getLink b j := rfl
@[simp] theorem getLink_putCodec (u : Nat) (x : Codec) (j : Nat) : getLink (putCodec b u x) j = getLink b j := rfl
@[simp] theorem getLink_putFeed (i : Nat) (x : Feed) (j : Nat) : getLink (putFeed b i x) j = getLink b j := rfl
@[simp] theorem getLink_putPort (f : Nat) (x : Port) (j : Nat) : getLink (putPort b f x) j = getLink b j := rfl
@[simp] theorem getLink_putRing (r : Nat) (x : Ring) (j : Nat) : getLink (putRing b r x) j = getLink b j := rfl
@[simp] theorem getLink_putGale (n : Nat) (x : Gale) (j : Nat) : getLink (putGale b n x) j = getLink b j := rfl
@[simp] theorem getLink_putBank (e i : Nat) (x : Bank) (j : Nat) : getLink (putBank b e i x) j = getLink b j := rfl
@[simp] theorem getLink_putRegion (r : Nat) (x : Region) (j : Nat) : getLink (putRegion b r x) j = getLink b j := rfl
@[simp] theorem getLink_updCur (n : Nat) (f : Current → Current) (j : Nat) : getLink (updCur b n f) j = getLink b j := rfl
@[simp] theorem getLink_reportAs (source cls code : Nat) (d : BitVec 128) (j : Nat) : getLink (reportAs b source cls code d) j = getLink b j := rfl
@[simp] theorem getLink_noteSet (x : W1cBit) (j : Nat) : getLink (noteSet b x) j = getLink b j := rfl
@[simp] theorem getLink_report (source code : Nat) (d : BitVec 128) (j : Nat) : getLink (report b source code d) j = getLink b j := rfl
@[simp] theorem getRange_putEddy (e : Nat) (x : Eddy) (j : Nat) : getRange (putEddy b e x) j = getRange b j := rfl
@[simp] theorem getRange_putGate (g : Nat) (x : Gate) (j : Nat) : getRange (putGate b g x) j = getRange b j := rfl
@[simp] theorem getRange_putStream (i : Nat) (x : Stream) (j : Nat) : getRange (putStream b i x) j = getRange b j := rfl
@[simp] theorem getRange_putCtx (c : Nat) (x : XltCtx) (j : Nat) : getRange (putCtx b c x) j = getRange b j := rfl
@[simp] theorem getRange_putLink (l : Nat) (x : Link) (j : Nat) : getRange (putLink b l x) j = getRange b j := rfl
@[simp] theorem getRange_putCodec (u : Nat) (x : Codec) (j : Nat) : getRange (putCodec b u x) j = getRange b j := rfl
@[simp] theorem getRange_putFeed (i : Nat) (x : Feed) (j : Nat) : getRange (putFeed b i x) j = getRange b j := rfl
@[simp] theorem getRange_putPort (f : Nat) (x : Port) (j : Nat) : getRange (putPort b f x) j = getRange b j := rfl
@[simp] theorem getRange_putRing (r : Nat) (x : Ring) (j : Nat) : getRange (putRing b r x) j = getRange b j := rfl
@[simp] theorem getRange_putGale (n : Nat) (x : Gale) (j : Nat) : getRange (putGale b n x) j = getRange b j := rfl
@[simp] theorem getRange_putBank (e i : Nat) (x : Bank) (j : Nat) : getRange (putBank b e i x) j = getRange b j := rfl
@[simp] theorem getRange_putRegion (r : Nat) (x : Region) (j : Nat) : getRange (putRegion b r x) j = getRange b j := rfl
@[simp] theorem getRange_updCur (n : Nat) (f : Current → Current) (j : Nat) : getRange (updCur b n f) j = getRange b j := rfl
@[simp] theorem getRange_reportAs (source cls code : Nat) (d : BitVec 128) (j : Nat) : getRange (reportAs b source cls code d) j = getRange b j := rfl
@[simp] theorem getRange_noteSet (x : W1cBit) (j : Nat) : getRange (noteSet b x) j = getRange b j := rfl
@[simp] theorem getRange_report (source code : Nat) (d : BitVec 128) (j : Nat) : getRange (report b source code d) j = getRange b j := rfl
@[simp] theorem getCodec_putEddy (e : Nat) (x : Eddy) (j : Nat) : getCodec (putEddy b e x) j = getCodec b j := rfl
@[simp] theorem getCodec_putGate (g : Nat) (x : Gate) (j : Nat) : getCodec (putGate b g x) j = getCodec b j := rfl
@[simp] theorem getCodec_putStream (i : Nat) (x : Stream) (j : Nat) : getCodec (putStream b i x) j = getCodec b j := rfl
@[simp] theorem getCodec_putCtx (c : Nat) (x : XltCtx) (j : Nat) : getCodec (putCtx b c x) j = getCodec b j := rfl
@[simp] theorem getCodec_putLink (l : Nat) (x : Link) (j : Nat) : getCodec (putLink b l x) j = getCodec b j := rfl
@[simp] theorem getCodec_putRange (r : Nat) (x : LRange) (j : Nat) : getCodec (putRange b r x) j = getCodec b j := rfl
@[simp] theorem getCodec_putFeed (i : Nat) (x : Feed) (j : Nat) : getCodec (putFeed b i x) j = getCodec b j := rfl
@[simp] theorem getCodec_putPort (f : Nat) (x : Port) (j : Nat) : getCodec (putPort b f x) j = getCodec b j := rfl
@[simp] theorem getCodec_putRing (r : Nat) (x : Ring) (j : Nat) : getCodec (putRing b r x) j = getCodec b j := rfl
@[simp] theorem getCodec_putGale (n : Nat) (x : Gale) (j : Nat) : getCodec (putGale b n x) j = getCodec b j := rfl
@[simp] theorem getCodec_putBank (e i : Nat) (x : Bank) (j : Nat) : getCodec (putBank b e i x) j = getCodec b j := rfl
@[simp] theorem getCodec_putRegion (r : Nat) (x : Region) (j : Nat) : getCodec (putRegion b r x) j = getCodec b j := rfl
@[simp] theorem getCodec_updCur (n : Nat) (f : Current → Current) (j : Nat) : getCodec (updCur b n f) j = getCodec b j := rfl
@[simp] theorem getCodec_reportAs (source cls code : Nat) (d : BitVec 128) (j : Nat) : getCodec (reportAs b source cls code d) j = getCodec b j := rfl
@[simp] theorem getCodec_noteSet (x : W1cBit) (j : Nat) : getCodec (noteSet b x) j = getCodec b j := rfl
@[simp] theorem getCodec_report (source code : Nat) (d : BitVec 128) (j : Nat) : getCodec (report b source code d) j = getCodec b j := rfl
@[simp] theorem getFeed_putEddy (e : Nat) (x : Eddy) (j : Nat) : getFeed (putEddy b e x) j = getFeed b j := rfl
@[simp] theorem getFeed_putGate (g : Nat) (x : Gate) (j : Nat) : getFeed (putGate b g x) j = getFeed b j := rfl
@[simp] theorem getFeed_putStream (i : Nat) (x : Stream) (j : Nat) : getFeed (putStream b i x) j = getFeed b j := rfl
@[simp] theorem getFeed_putCtx (c : Nat) (x : XltCtx) (j : Nat) : getFeed (putCtx b c x) j = getFeed b j := rfl
@[simp] theorem getFeed_putLink (l : Nat) (x : Link) (j : Nat) : getFeed (putLink b l x) j = getFeed b j := rfl
@[simp] theorem getFeed_putRange (r : Nat) (x : LRange) (j : Nat) : getFeed (putRange b r x) j = getFeed b j := rfl
@[simp] theorem getFeed_putCodec (u : Nat) (x : Codec) (j : Nat) : getFeed (putCodec b u x) j = getFeed b j := rfl
@[simp] theorem getFeed_putPort (f : Nat) (x : Port) (j : Nat) : getFeed (putPort b f x) j = getFeed b j := rfl
@[simp] theorem getFeed_putRing (r : Nat) (x : Ring) (j : Nat) : getFeed (putRing b r x) j = getFeed b j := rfl
@[simp] theorem getFeed_putGale (n : Nat) (x : Gale) (j : Nat) : getFeed (putGale b n x) j = getFeed b j := rfl
@[simp] theorem getFeed_putBank (e i : Nat) (x : Bank) (j : Nat) : getFeed (putBank b e i x) j = getFeed b j := rfl
@[simp] theorem getFeed_putRegion (r : Nat) (x : Region) (j : Nat) : getFeed (putRegion b r x) j = getFeed b j := rfl
@[simp] theorem getFeed_updCur (n : Nat) (f : Current → Current) (j : Nat) : getFeed (updCur b n f) j = getFeed b j := rfl
@[simp] theorem getFeed_reportAs (source cls code : Nat) (d : BitVec 128) (j : Nat) : getFeed (reportAs b source cls code d) j = getFeed b j := rfl
@[simp] theorem getFeed_noteSet (x : W1cBit) (j : Nat) : getFeed (noteSet b x) j = getFeed b j := rfl
@[simp] theorem getFeed_report (source code : Nat) (d : BitVec 128) (j : Nat) : getFeed (report b source code d) j = getFeed b j := rfl
@[simp] theorem getPort_putEddy (e : Nat) (x : Eddy) (j : Nat) : getPort (putEddy b e x) j = getPort b j := rfl
@[simp] theorem getPort_putGate (g : Nat) (x : Gate) (j : Nat) : getPort (putGate b g x) j = getPort b j := rfl
@[simp] theorem getPort_putStream (i : Nat) (x : Stream) (j : Nat) : getPort (putStream b i x) j = getPort b j := rfl
@[simp] theorem getPort_putCtx (c : Nat) (x : XltCtx) (j : Nat) : getPort (putCtx b c x) j = getPort b j := rfl
@[simp] theorem getPort_putLink (l : Nat) (x : Link) (j : Nat) : getPort (putLink b l x) j = getPort b j := rfl
@[simp] theorem getPort_putRange (r : Nat) (x : LRange) (j : Nat) : getPort (putRange b r x) j = getPort b j := rfl
@[simp] theorem getPort_putCodec (u : Nat) (x : Codec) (j : Nat) : getPort (putCodec b u x) j = getPort b j := rfl
@[simp] theorem getPort_putFeed (i : Nat) (x : Feed) (j : Nat) : getPort (putFeed b i x) j = getPort b j := rfl
@[simp] theorem getPort_putRing (r : Nat) (x : Ring) (j : Nat) : getPort (putRing b r x) j = getPort b j := rfl
@[simp] theorem getPort_putGale (n : Nat) (x : Gale) (j : Nat) : getPort (putGale b n x) j = getPort b j := rfl
@[simp] theorem getPort_putBank (e i : Nat) (x : Bank) (j : Nat) : getPort (putBank b e i x) j = getPort b j := rfl
@[simp] theorem getPort_putRegion (r : Nat) (x : Region) (j : Nat) : getPort (putRegion b r x) j = getPort b j := rfl
@[simp] theorem getPort_updCur (n : Nat) (f : Current → Current) (j : Nat) : getPort (updCur b n f) j = getPort b j := rfl
@[simp] theorem getPort_reportAs (source cls code : Nat) (d : BitVec 128) (j : Nat) : getPort (reportAs b source cls code d) j = getPort b j := rfl
@[simp] theorem getPort_noteSet (x : W1cBit) (j : Nat) : getPort (noteSet b x) j = getPort b j := rfl
@[simp] theorem getPort_report (source code : Nat) (d : BitVec 128) (j : Nat) : getPort (report b source code d) j = getPort b j := rfl
@[simp] theorem getRing_putEddy (e : Nat) (x : Eddy) (j : Nat) : getRing (putEddy b e x) j = getRing b j := rfl
@[simp] theorem getRing_putGate (g : Nat) (x : Gate) (j : Nat) : getRing (putGate b g x) j = getRing b j := rfl
@[simp] theorem getRing_putStream (i : Nat) (x : Stream) (j : Nat) : getRing (putStream b i x) j = getRing b j := rfl
@[simp] theorem getRing_putCtx (c : Nat) (x : XltCtx) (j : Nat) : getRing (putCtx b c x) j = getRing b j := rfl
@[simp] theorem getRing_putLink (l : Nat) (x : Link) (j : Nat) : getRing (putLink b l x) j = getRing b j := rfl
@[simp] theorem getRing_putRange (r : Nat) (x : LRange) (j : Nat) : getRing (putRange b r x) j = getRing b j := rfl
@[simp] theorem getRing_putCodec (u : Nat) (x : Codec) (j : Nat) : getRing (putCodec b u x) j = getRing b j := rfl
@[simp] theorem getRing_putFeed (i : Nat) (x : Feed) (j : Nat) : getRing (putFeed b i x) j = getRing b j := rfl
@[simp] theorem getRing_putPort (f : Nat) (x : Port) (j : Nat) : getRing (putPort b f x) j = getRing b j := rfl
@[simp] theorem getRing_putGale (n : Nat) (x : Gale) (j : Nat) : getRing (putGale b n x) j = getRing b j := rfl
@[simp] theorem getRing_putBank (e i : Nat) (x : Bank) (j : Nat) : getRing (putBank b e i x) j = getRing b j := rfl
@[simp] theorem getRing_putRegion (r : Nat) (x : Region) (j : Nat) : getRing (putRegion b r x) j = getRing b j := rfl
@[simp] theorem getRing_updCur (n : Nat) (f : Current → Current) (j : Nat) : getRing (updCur b n f) j = getRing b j := rfl
@[simp] theorem getRing_reportAs (source cls code : Nat) (d : BitVec 128) (j : Nat) : getRing (reportAs b source cls code d) j = getRing b j := rfl
@[simp] theorem getRing_noteSet (x : W1cBit) (j : Nat) : getRing (noteSet b x) j = getRing b j := rfl
@[simp] theorem getRing_report (source code : Nat) (d : BitVec 128) (j : Nat) : getRing (report b source code d) j = getRing b j := rfl
@[simp] theorem getGale_putEddy (e : Nat) (x : Eddy) (j : Nat) : getGale (putEddy b e x) j = getGale b j := rfl
@[simp] theorem getGale_putGate (g : Nat) (x : Gate) (j : Nat) : getGale (putGate b g x) j = getGale b j := rfl
@[simp] theorem getGale_putStream (i : Nat) (x : Stream) (j : Nat) : getGale (putStream b i x) j = getGale b j := rfl
@[simp] theorem getGale_putCtx (c : Nat) (x : XltCtx) (j : Nat) : getGale (putCtx b c x) j = getGale b j := rfl
@[simp] theorem getGale_putLink (l : Nat) (x : Link) (j : Nat) : getGale (putLink b l x) j = getGale b j := rfl
@[simp] theorem getGale_putRange (r : Nat) (x : LRange) (j : Nat) : getGale (putRange b r x) j = getGale b j := rfl
@[simp] theorem getGale_putCodec (u : Nat) (x : Codec) (j : Nat) : getGale (putCodec b u x) j = getGale b j := rfl
@[simp] theorem getGale_putFeed (i : Nat) (x : Feed) (j : Nat) : getGale (putFeed b i x) j = getGale b j := rfl
@[simp] theorem getGale_putPort (f : Nat) (x : Port) (j : Nat) : getGale (putPort b f x) j = getGale b j := rfl
@[simp] theorem getGale_putRing (r : Nat) (x : Ring) (j : Nat) : getGale (putRing b r x) j = getGale b j := rfl
@[simp] theorem getGale_putBank (e i : Nat) (x : Bank) (j : Nat) : getGale (putBank b e i x) j = getGale b j := rfl
@[simp] theorem getGale_putRegion (r : Nat) (x : Region) (j : Nat) : getGale (putRegion b r x) j = getGale b j := rfl
@[simp] theorem getGale_updCur (n : Nat) (f : Current → Current) (j : Nat) : getGale (updCur b n f) j = getGale b j := rfl
@[simp] theorem getGale_reportAs (source cls code : Nat) (d : BitVec 128) (j : Nat) : getGale (reportAs b source cls code d) j = getGale b j := rfl
@[simp] theorem getGale_noteSet (x : W1cBit) (j : Nat) : getGale (noteSet b x) j = getGale b j := rfl
@[simp] theorem getGale_report (source code : Nat) (d : BitVec 128) (j : Nat) : getGale (report b source code d) j = getGale b j := rfl

@[simp] theorem getCur_updCur (n : Nat) (f : Current → Current) : getCur (updCur b n f) n = f (getCur b n) :=
  Table.get_put_self ..

theorem getCur_updCur_ne {n m : Nat} (f : Current → Current) (h : m ≠ n) : getCur (updCur b n f) m = getCur b m :=
  Table.get_put_ne _ _ _ h

@[simp] theorem getRegion_putRegion (r : Nat) (x : Region) : getRegion (putRegion b r x) r = some x :=
  Table.find_add_self ..

theorem getRegion_putRegion_ne {r q : Nat} (x : Region) (h : q ≠ r) : getRegion (putRegion b r x) q = getRegion b q :=
  Table.find_add_ne _ _ h

@[simp] theorem updEddy_eq (i : Nat) (g : Eddy → Eddy) : updEddy b i g = putEddy b i (g (getEddy b i)) := rfl

@[simp] theorem updStream_eq (i : Nat) (g : Stream → Stream) : updStream b i g = putStream b i (g (getStream b i)) := rfl

@[simp] theorem updLink_eq (i : Nat) (g : Link → Link) : updLink b i g = putLink b i (g (getLink b i)) := rfl

@[simp] theorem updCodec_eq (i : Nat) (g : Codec → Codec) : updCodec b i g = putCodec b i (g (getCodec b i)) := rfl

@[simp] theorem updPort_eq (i : Nat) (g : Port → Port) : updPort b i g = putPort b i (g (getPort b i)) := rfl

@[simp] theorem putBank_lee_mem (e i : Nat) (x : Bank) : (putBank b e i x).lee.mem = b.lee.mem := rfl
@[simp] theorem putBank_lee_poison (e i : Nat) (x : Bank) : (putBank b e i x).lee.poison = b.lee.poison := rfl
@[simp] theorem putBank_lee_err (e i : Nat) (x : Bank) : (putBank b e i x).lee.err = b.lee.err := rfl
@[simp] theorem putBank_lee_regions (e i : Nat) (x : Bank) : (putBank b e i x).lee.regions = b.lee.regions := rfl
@[simp] theorem putRegion_lee_mem (r : Nat) (x : Region) : (putRegion b r x).lee.mem = b.lee.mem := rfl
@[simp] theorem putRegion_lee_poison (r : Nat) (x : Region) : (putRegion b r x).lee.poison = b.lee.poison := rfl
@[simp] theorem putRegion_lee_err (r : Nat) (x : Region) : (putRegion b r x).lee.err = b.lee.err := rfl
@[simp] theorem putRegion_lee_banks (r : Nat) (x : Region) : (putRegion b r x).lee.banks = b.lee.banks := rfl

end Sys2Proof.Machine
end

