-- ==== Sys2Proof/Laws/Issue.lean ====
section
/-! SUPPORT. What issue can do: the cases of an instruction word that stands at the index of an Eddy. -/

namespace Sys2Proof.Machine

open Sys2Proof.Safety

theorem atIndex_iff (b : Block) (e w : Nat) :
    atIndex b e w = true ↔ canIssue b e = true ∧ (getEddy b e).pc ≤ 16383 ∧
      Table.find (getEddy b e).imemErr (getEddy b e).pc = none ∧
      (Table.get haltWord (getEddy b e).imem (getEddy b e).pc).toNat = w := by
  simp [atIndex, and_assoc]

theorem decodesTo_iff (w cls op : Nat) :
    decodesTo w cls op = true ↔ legal w = true ∧ insClass w = cls ∧ insOp w = op := by
  simp [decodesTo, and_assoc]

theorem fetch_clean (x : Eddy) (i : Nat) (h : Table.find x.imemErr i = none) :
    fetch x i = (some (Table.get haltWord x.imem i).toNat, x) := by simp [fetch, h]

/-- What issue answers for a word that stands at the index, whatever instruction was expected. -/
theorem issue_atIndex (cls op : Nat) (body : Body) (b : Block) (e w : Nat) (h : atIndex b e w = true) :
    issue cls op body e b =
      (if !legal w then taskFault b e (getEddy b e).pc 0x380
       else if insClass w != cls || insOp w != op then b
       else if predPoison (getEddy b e) (insPred w) then taskFault b e (getEddy b e).pc 0x38B
       else if !predHolds (getEddy b e) (insPred w) then putEddy b e (continueAt (getEddy b e) .next)
       else if !mayIssue b e w then b
       else match body b e w with
        | .error c => taskFault b e (getEddy b e).pc c
        | .ok (b'', .fault c) => taskFault b'' e (getEddy b e).pc c
        | .ok (b'', f) => updEddy b'' e (fun y => continueAt y f)) := by
  obtain ⟨h1, h2, h3, rfl⟩ := (atIndex_iff b e w).1 h
  have h4 : ¬ 16383 < (getEddy b e).pc := by omega
  simp only [issue, h1, h4, fetch_clean _ _ h3, h3, Bool.not_true, Option.isNone_none, if_true, if_false,
    Bool.false_eq_true] <;> rfl

/-- An instruction that is ready takes its effect. -/
theorem issue_ready (cls op : Nat) (body : Body) (b : Block) (e w : Nat) (h : ready b e w cls op = true) :
    issue cls op body e b =
      match body b e w with
      | .error c => taskFault b e (getEddy b e).pc c
      | .ok (b'', .fault c) => taskFault b'' e (getEddy b e).pc c
      | .ok (b'', f) => updEddy b'' e (fun y => continueAt y f) := by
  simp only [ready, fetched, Bool.and_eq_true, predTrue, Bool.not_eq_true'] at h
  obtain ⟨⟨⟨h1, h2⟩, h3, h4⟩, h5⟩ := h
  obtain ⟨h6, h7, h8⟩ := (decodesTo_iff w cls op).1 h2
  simp [issue_atIndex cls op body b e w h1, h6, h7, h8, h3, h4, h5]

/-- An instruction whose body succeeds and goes on. -/
theorem issue_ok (cls op : Nat) (body : Body) (b : Block) (e w : Nat) (h : ready b e w cls op = true)
    (b1 : Block) (f : Flow) (hr : body b e w = .ok (b1, f)) (hf : ∀ c, f ≠ .fault c) :
    issue cls op body e b = updEddy b1 e (fun y => continueAt y f) := by
  rw [issue_ready cls op body b e w h, hr]
  cases f <;> first | rfl | exact absurd rfl (hf _)

/-! ## Interlocks of CTL and SCA -/

@[simp] theorem leeClash_nil (x : Eddy) (ops : List (Nat × MatOp)) : leeClash x ops [] [] = false := by
  simp [leeClash, rangesMeet]

@[simp] theorem slotClash_nil (x : Eddy) : slotClash x [] [] = false := by simp [slotClash]

@[simp] theorem unitClash_nil (b : Block) (e : Nat) : unitClash b e [] [] = false := by
  simp only [unitClash, rangesMeet, List.any_nil, Bool.or_self, List.any_eq_false, Bool.or_eq_false_iff]
  refine ⟨fun _ _ => by simp, fun o _ => ?_⟩
  cases o.origin <;> simp

/-- An instruction of CTL other than HALT waits on no interlock. -/
theorem mayIssue_ctl (b : Block) (e w : Nat) (hc : insClass w = 0) (ho : insOp w ≠ 6) : mayIssue b e w = true := by
  simp [mayIssue, footOf, hc, ho, isUnitClass]

/-- A scalar instruction other than LDS and STS waits on no interlock. -/
theorem mayIssue_sca (b : Block) (e w : Nat) (hc : insClass w = 1) (h1 : insOp w ≠ 0xE) (h2 : insOp w ≠ 0xF) :
    mayIssue b e w = true := by
  simp [mayIssue, footOf, hc, h1, h2, isUnitClass]

/-- An instruction of SYN waits on no interlock. -/
theorem mayIssue_syn (b : Block) (e w : Nat) (hc : insClass w = 9) : mayIssue b e w = true := by
  simp [mayIssue, footOf, hc, isUnitClass]

theorem ready_of_fetched (b : Block) (e w cls op : Nat) (h : fetched b e w cls op = true)
    (hm : mayIssue b e w = true) : ready b e w cls op = true := by simp [ready, h, hm]

end Sys2Proof.Machine
end

