-- ==== Sys2Proof/Laws/Memory.lean ====
section
/-! SUPPORT. Laws of Lee memory: what a byte reads as after a write, and that every memory operation keeps the canonical
form. -/

namespace Sys2Proof.Machine

open Sys2Proof.Safety

/-! ## Bytes -/

/-- A write of consecutive bytes leaves every other byte. -/
theorem memPut_outside (m : List Host.Cell) (a : Nat) (l : List Byte) (j : Nat) (h : j < a ∨ a + l.length ≤ j) :
    Table.get 0 (memPut m a l) j = Table.get 0 m j := by
  induction l generalizing m a with
  | nil => rfl
  | cons x r ih =>
    rw [memPut, ih _ _ (by simp only [List.length_cons] at h; omega),
      Table.get_put_ne _ _ _ (by simp only [List.length_cons] at h; omega)]

/-- A write of consecutive bytes is read back. -/
theorem memPut_inside (m : List Host.Cell) (a : Nat) (l : List Byte) (i : Nat) (h : i < l.length) :
    Table.get 0 (memPut m a l) (a + i) = l[i] := by
  induction l generalizing m a i with
  | nil => simp at h
  | cons x r ih =>
    cases i with
    | zero => rw [memPut, memPut_outside _ _ _ _ (Or.inl (by omega))]; simp
    | succ k =>
      have hk : k < r.length := by simpa using h
      have e : a + (k + 1) = a + 1 + k := by omega
      rw [memPut, e, ih _ _ _ hk]; simp

theorem memPut_wf (m : List Host.Cell) (a : Nat) (l : List Byte) (h : Table.wf 0 m = true) :
    Table.wf 0 (memPut m a l) = true := by
  induction l generalizing m a with
  | nil => exact h
  | cons x r ih => exact ih _ _ (Table.wf_put 0 m a x h)

/-! ## Updates that do not touch memory -/

@[simp] theorem putEddy_memoryWf (b : Block) (e : Nat) (x : Eddy) : memoryWf (putEddy b e x) = memoryWf b := rfl
@[simp] theorem putBank_memoryWf (b : Block) (e i : Nat) (x : Bank) : memoryWf (putBank b e i x) = memoryWf b := rfl
@[simp] theorem putRegion_memoryWf (b : Block) (r : Nat) (x : Region) : memoryWf (putRegion b r x) = memoryWf b := rfl
@[simp] theorem updCur_memoryWf (b : Block) (n : Nat) (f : Current → Current) : memoryWf (updCur b n f) = memoryWf b := rfl
@[simp] theorem report_memoryWf (b : Block) (s c : Nat) (d : BitVec 128) : memoryWf (report b s c d) = memoryWf b := rfl

theorem retirePending_memoryWf (b : Block) (e i : Nat) : memoryWf (retirePending b e i) = memoryWf b := by
  unfold retirePending; dsimp only; split <;> rfl

/-! ## Every operation over Lee keeps the canonical form -/

theorem leePut_wf (l : Lee) (g : Nat) (d : Granule) (p : Bool) (h : Table.wf 0 l.mem = true) :
    Table.wf 0 (leePut l g d p).mem = true := memPut_wf _ _ _ h

theorem leeWrite_wf (b : Block) (n g : Nat) (d : Granule) (p : Bool) (h : memoryWf b = true) :
    memoryWf (leeWrite b n g d p) = true := by
  have h' : memoryWf { b with lee := leePut b.lee g d p } = true := leePut_wf _ _ _ _ h
  unfold leeWrite; dsimp only; split
  · rw [updCur_memoryWf]; exact h'
  · exact h'

theorem leeCorrect_wf (b : Block) (g : Nat) (d : Granule) (h : memoryWf b = true) :
    memoryWf (leeCorrect b g d) = true := by
  unfold leeCorrect; dsimp only; split
  · rw [retirePending_memoryWf]; exact leePut_wf _ _ _ _ h
  · exact leePut_wf _ _ _ _ h

theorem leeUncorr_wf (b : Block) (g : Nat) (d : Granule) (h : memoryWf b = true) :
    memoryWf (leeUncorr b g d) = true := by
  unfold leeUncorr; dsimp only; split
  · rw [retirePending_memoryWf, report_memoryWf]; exact leePut_wf _ _ _ _ h
  · rw [report_memoryWf]; exact leePut_wf _ _ _ _ h

theorem leeRead_wf (b : Block) (g : Nat) (h : memoryWf b = true) : memoryWf (leeRead b g).2.2 = true := by
  unfold leeRead; dsimp only; split
  · exact h
  · split
    · exact h
    · exact h
    · exact leeCorrect_wf _ _ _ h
    · exact leeUncorr_wf _ _ _ h

theorem leeReadN_wf (b : Block) (g n : Nat) (h : memoryWf b = true) : memoryWf (leeReadN b g n).2 = true := by
  induction n generalizing b g with
  | zero => exact h
  | succ n ih => exact ih _ _ (leeRead_wf _ _ h)

theorem leeWriteN_wf (b : Block) (n g : Nat) (l : List (Granule × Bool)) (h : memoryWf b = true) :
    memoryWf (leeWriteN b n g l) = true := by
  induction l generalizing b g with
  | nil => exact h
  | cons x r ih => exact ih _ _ (leeWrite_wf _ _ _ _ _ h)

theorem leeBytesAt_wf (b : Block) (a n : Nat) (h : memoryWf b = true) : memoryWf (leeBytesAt b a n).2 = true := by
  unfold leeBytesAt; split
  · exact h
  · exact leeReadN_wf _ _ _ h

theorem leeMerge_wf (b : Block) (n g i : Nat) (l : Marked) (h : memoryWf b = true) :
    memoryWf (leeMerge b n g i l) = true := by
  unfold leeMerge; split
  · exact leeWrite_wf _ _ _ _ _ h
  · exact leeWrite_wf _ _ _ _ _ (leeRead_wf _ _ h)

theorem leePutBytes_wf (f : Nat) (b : Block) (n a : Nat) (l : Marked) (h : memoryWf b = true) :
    memoryWf (leePutBytes f b n a l) = true := by
  induction f generalizing b a l with
  | zero => exact h
  | succ f ih =>
    cases l with
    | nil => exact h
    | cons x r => exact ih _ _ _ (leeMerge_wf _ _ _ _ _ h)

theorem leeWriteBytes_wf (b : Block) (n a : Nat) (l : Marked) (h : memoryWf b = true) :
    memoryWf (leeWriteBytes b n a l) = true := leePutBytes_wf _ _ _ _ _ h

theorem putHeader_wf (b : Block) (r : Region) (off v : Nat) (h : memoryWf b = true) :
    memoryWf (putHeader b r off v) = true := memPut_wf _ _ _ h

theorem leeZero_wf (b : Block) (a n : Nat) (h : memoryWf b = true) : memoryWf (leeZero b a n) = true :=
  Table.wf_filter _ _ _ h

theorem bankApply_wf (b : Block) (r : Region) (op off : Nat) (d : Granule) (p : Bool) (h : memoryWf b = true) :
    memoryWf (bankApply b r op off d p) = true := by
  unfold bankApply; dsimp only; split
  · exact leeWrite_wf _ _ _ _ _ h
  · exact leeWrite_wf _ _ _ _ _ (leeRead_wf _ _ h)

/-- Memory in the reset state. -/
theorem reset_memoryWf : memoryWf State.reset.blk = true := rfl

end Sys2Proof.Machine
end

