-- ==== Sys2Proof/WellFormed.lean ====
section
/-! DEFINITION. Commands whose operands name units that the block has: an operand is in the range of the rule that
numbers its unit. Nothing else is asked: a command that the state does not enable changes nothing (log 1). -/

namespace Sys2Proof

/-- A codec unit of R158, numbered as R349 numbers sources of kind 0x2. -/
def isUnit (u : Nat) : Bool :=
  decide (u < 24) || (decide (0x40 ≤ u) && decide (u < 0x58)) || (decide (0x100 ≤ u) && decide (u < 0x120)) ||
    (decide (0x200 ≤ u) && decide (u < 0x210))

/-- The operands of a command name existing units. -/
def WellFormed (i : Instr) : Bool :=
  match i with
  | .nop e => decide (e < 128)
  | .br e => decide (e < 128)
  | .brr e => decide (e < 128)
  | .call e => decide (e < 128)
  | .ret e => decide (e < 128)
  | .loop e => decide (e < 128)
  | .halt e => decide (e < 128)
  | .trap e => decide (e < 128)
  | .rdctr e => decide (e < 128)
  | .add e => decide (e < 128)
  | .sub e => decide (e < 128)
  | .mul e => decide (e < 128)
  | .mulh e => decide (e < 128)
  | .and e => decide (e < 128)
  | .or e => decide (e < 128)
  | .xor e => decide (e < 128)
  | .shl e => decide (e < 128)
  | .shr e => decide (e < 128)
  | .sar e => decide (e < 128)
  | .min e => decide (e < 128)
  | .max e => decide (e < 128)
  | .cmp e => decide (e < 128)
  | .sel e => decide (e < 128)
  | .lds e => decide (e < 128)
  | .sts e => decide (e < 128)
  | .mov e => decide (e < 128)
  | .movComplete e => decide (e < 128)
  | .gsig e => decide (e < 128)
  | .gwait e => decide (e < 128)
  | .bar e => decide (e < 128)
  | .fence e => decide (e < 128)
  | .fenceComplete e => decide (e < 128)
  | .gateSignalArrival g _ => decide (g < 8192)
  | .gateWaitArrival g _ => decide (g < 8192)
  | .gateWake e => decide (e < 128)
  | .unitTakeUp e u => decide (e < 128) && decide (3 ≤ u ∧ u < 9)
  | .vadd e => decide (e < 128)
  | .vsub e => decide (e < 128)
  | .vmul e => decide (e < 128)
  | .vfma e => decide (e < 128)
  | .vaxpy e => decide (e < 128)
  | .vmax e => decide (e < 128)
  | .vmin e => decide (e < 128)
  | .vabs e => decide (e < 128)
  | .vneg e => decide (e < 128)
  | .vrcp e => decide (e < 128)
  | .vrsq e => decide (e < 128)
  | .vsqrt e => decide (e < 128)
  | .vexp2 e => decide (e < 128)
  | .vlog2 e => decide (e < 128)
  | .vcvt e => decide (e < 128)
  | .rsum e => decide (e < 128)
  | .rsumsq e => decide (e < 128)
  | .rmax e => decide (e < 128)
  | .rmin e => decide (e < 128)
  | .ramax e => decide (e < 128)
  | .scan e => decide (e < 128)
  | .convert e => decide (e < 128)
  | .expand e => decide (e < 128)
  | .rmerge e => decide (e < 128)
  | .sclr e => decide (e < 128)
  | .tload e => decide (e < 128)
  | .tileLoadComplete e v => decide (e < 128) && decide (v < 8)
  | .tswap e => decide (e < 128)
  | .tswapEffect e => decide (e < 128)
  | .mma e => decide (e < 128)
  | .rowEntry e _ => decide (e < 128)
  | .drain e => decide (e < 128)
  | .drainclr e => decide (e < 128)
  | .drainSlotRead e => decide (e < 128)
  | .csave e => decide (e < 128)
  | .furl e => decide (e < 128)
  | .unfurl e => decide (e < 128)
  | .cwait e => decide (e < 128)
  | .codJobAccept u => isUnit u
  | .codJobStart u => isUnit u
  | .feedBind u => isUnit u
  | .furlBlockRelease u => isUnit u
  | .furlBlockWrite u => isUnit u
  | .unfurlHeader u => isUnit u
  | .unfurlBlockRelease u => isUnit u
  | .codJobEnd u => isUnit u
  | .arm e => decide (e < 128)
  | .rearm e => decide (e < 128)
  | .swait e => decide (e < 128)
  | .rwait e => decide (e < 128)
  | .rfree e => decide (e < 128)
  | .sstat e => decide (e < 128)
  | .streamGrant n => decide (n < 8)
  | .arbiterGrant _ _ => true
  | .ringPublish sid => decide (sid < 2048)
  | .tteTick n => decide (n < 8)
  | .deadlineMiss sid => decide (sid < 2048)
  | .pageTranslationDone sid => decide (sid < 2048)
  | .streamFault sid => decide (sid < 2048)
  | .transferComplete sid => decide (sid < 2048)
  | .pendingActivate sid => decide (sid < 2048)
  | .strCmdResume sid => decide (sid < 2048)
  | .strCmdAbort sid => decide (sid < 2048)
  | .xltCtxValid c _ => decide (c < 16)
  | .atomicApply f => decide (f < 64)
  | .contributionEnd f => decide (f < 64)
  | .reduceArm rid => decide (1 ≤ rid ∧ rid < 4096)
  | .zeroEnd rid => decide (1 ≤ rid ∧ rid < 4096)
  | .scrubTick e b => decide (e < 128) && decide (b < 48)
  | .stashFlitTake u => isUnit u
  | .linkFlitReceive l _ _ => decide (l < 24)
  | .uncorrectableCodeword l _ => decide (l < 24)
  | .replayTimeout l vc => decide (l < 24) && decide (1 ≤ vc ∧ vc < 4)
  | .linkFlitSend l => decide (l < 24)
  | .pause l => decide (l < 24)
  | .catchQueueWrite l => decide (l < 24)
  | .catchQueueRead l => decide (l < 24)
  | .dropPacket l => decide (l < 24)
  | .segLand l => decide (l < 24)
  | .passEnd l => decide (l < 24)
  | .readRsp l => decide (l < 24)
  | .writeRefuse l => decide (l < 24)
  | .tagTimeout l tag => decide (l < 24) && decide (tag < 4096)
  | .sealReceive l => decide (l < 24)
  | .keySwitch l => decide (l < 24)
  | .laneRetire l lane => decide (l < 24) && decide (lane < 17)
  | .linkTraining l => decide (l < 24)
  | .trainingWord l lane _ => decide (l < 24) && decide (lane < 17)
  | .trainFail l => decide (l < 24)
  | .phyRdyFall l lane => decide (l < 24) && decide (lane < 17)
  | .noIntactFlit l => decide (l < 24)
  | .laneRetrain l lane => decide (l < 24) && decide (lane < 17)
  | .serWindow l => decide (l < 24)
  | .linkDown l => decide (l < 24)
  | .lnkCmdTrain l => decide (l < 24)
  | .lnkCmdRetrain l => decide (l < 24)
  | .lnkCmdRetire l lane => decide (l < 24) && decide (lane < 17)
  | .lnkCmdClrCounts l => decide (l < 24)
  | .rangeArm src => decide (src < 66)
  | .rangeFree src => decide (src < 66)
  | .wsCtrlClrStat => true
  | .fabricFlitReceive f cls _ => decide (f < 64) && decide (cls < 4)
  | .fabricMessage f => decide (f < 64)
  | .fabricGsig f => decide (f < 64)
  | .bootData f => decide (f < 64)
  | .fabricCreditReturn f c => decide (f < 64) && decide (c < 4)
  | .fabricCreditFree f c => decide (f < 64) && decide (c < 4)
  | .fabricFlitSend f => decide (f < 64)
  | .padded f c => decide (f < 64) && decide (c < 4)
  | .portUp f => decide (f < 64)
  | .peerDown f => decide (f < 64)
  | .portReset f => decide (f < 64)
  | .portResetEnd f => decide (f < 64)
  | .fabCmdReset f => decide (f < 64)
  | .fabCmdClrCounts f => decide (f < 64)
  | .fabCfgDis f _ => decide (f < 64)
  | .seamBeatRelease _ _ => true
  | .beatPartMissing _ ch => decide (ch < 34)
  | .seamWindow => true
  | .seamRetired ch => decide (ch < 34)
  | .seamCmdRetire ch => decide (ch < 34)
  | .seamCtrlClrCounts => true
  | .uncontainedStop => true
  | .jobEnd _ => true
  | .eventReport source code _ => decide (source < 65536) && decide (code < 4096)
  | .eventAppend => true
  | .evtRdSeqWrite _ => true
  | .evtCtrlClrLost => true
  | .evtCtrlClrLog => true
  | .fltCtrlClrCounts => true
  | .w1cWrite _ _ => true
  | .eddyCtrlClrImemErr e => decide (e < 128)
  | .eddyMatCtrlClrResidue e => decide (e < 128)
  | .eddyMatCtrlClrFlags e => decide (e < 128)
  | .eddyQntCtrlClrStat e => decide (e < 128)
  | .codCtrlClrCounts u => isUnit u
  | .leeCtrlClrCounts n => decide (n < 8)
  | .registerWrite _ _ => true
  | .rstColdN _ => true
  | .rstWarmN _ => true
  | .resetAssert _ => true
  | .startStageEnd _ => true
  | .pllLock pll => decide (pll < 11)
  | .stageTimeout => true
  | .startLock => true
  | .bootPort _ => true
  | .bootGo _ => true
  | .watchdog => true
  | .powerInterval _ => true
  | .glideEnd n => decide (n < 8)
  | .droop => true
  | .droopRestoreStage => true
  | .estimateTick d _ => decide (d < 13)
  | .sensorRead sensor _ _ => decide (sensor < 32)
  | .thermalHold sensor => decide (sensor < 32)
  | .holdExit => true
  | .vanePowerStep n => decide (n < 8)
  | .pwrCtrlClrCounts => true
  | .currentGate src => decide (src < 66)
  | .currentUngate src => decide (src < 66)
  | .powerBudget src => decide (src < 66)
  | .lifecycleProd src _ => decide (src < 66)
  | .lifecycleRma src _ => decide (src < 66)
  | .lifecycleScrap src _ => decide (src < 66)
  | .fuseWrite word _ _ => decide (word < 7)
  | .rollbackAdvance src => decide (src < 66)
  | .rootRevoke src => decide (src < 66)
  | .keyLoad src => decide (src < 66)
  | .keyCommit _ => true
  | .contextAssign src => decide (src < 66)
  | .dbgReq _ => true
  | .debugGrant => true
  | .newNonce => true
  | .dbgDrop => true
  | .nonceExpiry => true
  | .wrapperInstruction _ => true
  | .dapAccess op _ _ => decide (op < 18)
  | .mgtReq _ _ _ => true
  | .ringCfgEn r _ => decide (r < 64)
  | .doorbell r _ => decide (r < 64)
  | .commandTake src => decide (src < 66)
  | .completionWrite r => decide (r < 66)
  | .cplHeadWrite r _ => decide (r < 64)
  | .mboxGo => true
  | .leeData _ _ => true
  | .caps src => decide (src < 66)
  | .regionAlloc src => decide (src < 66)
  | .regionFree src => decide (src < 66)
  | .regionZero src => decide (src < 66)
  | .reduceArmCommand src => decide (src < 66)
  | .streamArm src => decide (src < 66)
  | .streamRearm src => decide (src < 66)
  | .streamResume src => decide (src < 66)
  | .streamAbort src => decide (src < 66)
  | .gateSignal src => decide (src < 66)
  | .furlCommand src => decide (src < 66)
  | .unfurlCommand src => decide (src < 66)
  | .jobStart src => decide (src < 66)
  | .jobAbort src => decide (src < 66)
  | .mctpMessage msg => decide (1 ≤ msg.length ∧ msg.length ≤ 256)
  | .pldmCommand msg => decide (1 ≤ msg.length ∧ msg.length ≤ 256)
  | .dynamicAddress _ => true
  | .retrainFail l => decide (l < 24)
  | .phyRdyRise l lane => decide (l < 24) && decide (lane < 17)

end Sys2Proof
end

