-- ==== Sys2Proof/Tests/Slice0.lean ====
section
/-! SUPPORT. Tests of the model: the smoke test of WellFormed, one state for each clause of each statement that meets
its hypotheses, and single steps whose results the manual gives. Expected values come from the manual's text. -/

namespace Sys2Proof.Tests

open Sys2Proof Sys2Proof.Machine Sys2Proof.Safety

set_option Elab.async false

/-- Ill-formed commands, one for each check of WellFormed, each just outside its range (part 1). -/
def illFormed1 : List Instr :=
  [.nop 128, .br 128, .brr 128, .call 128, .ret 128, .loop 128, .halt 128, .trap 128, .rdctr 128, .add 128,
    .sub 128, .mul 128, .mulh 128, .and 128, .or 128, .xor 128, .shl 128, .shr 128, .sar 128, .min 128, .max 128,
    .cmp 128, .sel 128, .lds 128, .sts 128, .mov 128, .movComplete 128, .gsig 128, .gwait 128, .bar 128,
    .fence 128, .fenceComplete 128, .gateSignalArrival 8192 0, .gateWaitArrival 8192 0, .gateWake 128,
    .unitTakeUp 128 3, .unitTakeUp 0 2, .unitTakeUp 0 9, .vadd 128, .vsub 128, .vmul 128, .vfma 128, .vaxpy 128,
    .vmax 128, .vmin 128, .vabs 128, .vneg 128, .vrcp 128, .vrsq 128, .vsqrt 128, .vexp2 128, .vlog2 128]

/-- Ill-formed commands, one for each check of WellFormed, each just outside its range (part 2). -/
def illFormed2 : List Instr :=
  [.vcvt 128, .rsum 128, .rsumsq 128, .rmax 128, .rmin 128, .ramax 128, .scan 128, .convert 128, .expand 128,
    .rmerge 128, .sclr 128, .tload 128, .tileLoadComplete 128 0, .tileLoadComplete 0 8, .tswap 128,
    .tswapEffect 128, .mma 128, .rowEntry 128 0, .drain 128, .drainclr 128, .drainSlotRead 128, .csave 128,
    .furl 128, .unfurl 128, .cwait 128, .codJobAccept 24, .codJobAccept 0x58, .codJobAccept 0x120,
    .codJobAccept 0x210, .codJobStart 24, .codJobStart 0x58, .codJobStart 0x120, .codJobStart 0x210, .feedBind 24,
    .feedBind 0x58, .feedBind 0x120, .feedBind 0x210, .furlBlockRelease 24, .furlBlockRelease 0x58,
    .furlBlockRelease 0x120, .furlBlockRelease 0x210, .furlBlockWrite 24, .furlBlockWrite 0x58,
    .furlBlockWrite 0x120, .furlBlockWrite 0x210, .unfurlHeader 24, .unfurlHeader 0x58, .unfurlHeader 0x120,
    .unfurlHeader 0x210, .unfurlBlockRelease 24, .unfurlBlockRelease 0x58, .unfurlBlockRelease 0x120]

/-- Ill-formed commands, one for each check of WellFormed, each just outside its range (part 3). -/
def illFormed3 : List Instr :=
  [.unfurlBlockRelease 0x210, .codJobEnd 24, .codJobEnd 0x58, .codJobEnd 0x120, .codJobEnd 0x210, .arm 128,
    .rearm 128, .swait 128, .rwait 128, .rfree 128, .sstat 128, .streamGrant 8, .ringPublish 2048, .tteTick 8,
    .deadlineMiss 2048, .pageTranslationDone 2048, .streamFault 2048, .transferComplete 2048,
    .pendingActivate 2048, .strCmdResume 2048, .strCmdAbort 2048, .xltCtxValid 16 0, .atomicApply 64,
    .contributionEnd 64, .reduceArm 0, .reduceArm 4096, .zeroEnd 0, .zeroEnd 4096, .scrubTick 128 0,
    .scrubTick 0 48, .stashFlitTake 24, .stashFlitTake 0x58, .stashFlitTake 0x120, .stashFlitTake 0x210,
    .linkFlitReceive 24 0 [], .uncorrectableCodeword 24 0, .replayTimeout 24 1, .replayTimeout 0 0,
    .replayTimeout 0 4, .linkFlitSend 24, .pause 24, .catchQueueWrite 24, .catchQueueRead 24, .dropPacket 24,
    .segLand 24, .passEnd 24, .readRsp 24, .writeRefuse 24, .tagTimeout 24 0, .tagTimeout 0 4096, .sealReceive 24,
    .keySwitch 24]

/-- Ill-formed commands, one for each check of WellFormed, each just outside its range (part 4). -/
def illFormed4 : List Instr :=
  [.laneRetire 24 0, .laneRetire 0 17, .linkTraining 24, .trainingWord 24 0 0, .trainingWord 0 17 0,
    .trainFail 24, .phyRdyFall 24 0, .phyRdyFall 0 17, .noIntactFlit 24, .laneRetrain 24 0, .laneRetrain 0 17,
    .serWindow 24, .linkDown 24, .lnkCmdTrain 24, .lnkCmdRetrain 24, .lnkCmdRetire 24 0, .lnkCmdRetire 0 17,
    .lnkCmdClrCounts 24, .rangeArm 66, .rangeFree 66, .fabricFlitReceive 64 0 0, .fabricFlitReceive 0 4 0,
    .fabricMessage 64, .fabricGsig 64, .bootData 64, .fabricCreditReturn 64 0, .fabricCreditReturn 0 4,
    .fabricCreditFree 64 0, .fabricCreditFree 0 4, .fabricFlitSend 64, .padded 64 0, .padded 0 4, .portUp 64,
    .peerDown 64, .portReset 64, .portResetEnd 64, .fabCmdReset 64, .fabCmdClrCounts 64, .fabCfgDis 64 false,
    .beatPartMissing false 34, .seamRetired 34, .seamCmdRetire 34, .eventReport 65536 0 0, .eventReport 0 4096 0,
    .eddyCtrlClrImemErr 128, .eddyMatCtrlClrResidue 128, .eddyMatCtrlClrFlags 128, .eddyQntCtrlClrStat 128,
    .codCtrlClrCounts 24, .codCtrlClrCounts 0x58, .codCtrlClrCounts 0x120, .codCtrlClrCounts 0x210]

/-- Ill-formed commands, one for each check of WellFormed, each just outside its range (part 5). -/
def illFormed5 : List Instr :=
  [.leeCtrlClrCounts 8, .pllLock 11, .glideEnd 8, .estimateTick 13 0, .sensorRead 32 0 false, .thermalHold 32,
    .vanePowerStep 8, .currentGate 66, .currentUngate 66, .powerBudget 66, .lifecycleProd 66 0, .lifecycleRma 66 0,
    .lifecycleScrap 66 0, .fuseWrite 7 0 0, .rollbackAdvance 66, .rootRevoke 66, .keyLoad 66, .contextAssign 66,
    .dapAccess 18 0 0, .ringCfgEn 64 0, .doorbell 64 0, .commandTake 66, .completionWrite 66, .cplHeadWrite 64 0,
    .caps 66, .regionAlloc 66, .regionFree 66, .regionZero 66, .reduceArmCommand 66, .streamArm 66,
    .streamRearm 66, .streamResume 66, .streamAbort 66, .gateSignal 66, .furlCommand 66, .unfurlCommand 66,
    .jobStart 66, .jobAbort 66, .mctpMessage [], .mctpMessage (List.replicate 257 0), .pldmCommand [],
    .pldmCommand (List.replicate 257 0), .retrainFail 24, .phyRdyRise 24 0, .phyRdyRise 0 17]

/-- Every check refuses its ill-formed command. -/
theorem test_wellformed_smoke :
    [illFormed1, illFormed2, illFormed3, illFormed4, illFormed5].all (fun l => l.all (fun c => !WellFormed c)) = true := by
  decide +kernel

/-! ## Small states -/

/-- The block after S7 with every Current enabled and 24 links populated. -/
def up : Block :=
  { Block.reset with start := { Start.reset with
      phase := .run, coldLow := false, straps := ⟨0, 24, 255, 0, false, 0, 3⟩, ready := true } }

/-- A state with a block, no fuse blown and no command waiting. -/
def st (b : Block) : State := ⟨[], Fuses.reset, b⟩

/-- An instruction word of a CLASS and OP with the given fields, each by its lowest bit. -/
def word (cls op : Nat) (l : List (Nat × Nat)) : Nat :=
  cls * 2 ^ 124 + op * 2 ^ 120 + (l.map (fun p => p.2 * 2 ^ p.1)).sum

/-- Eddy 0 runs with a word at its index. -/
def atWord (b : Block) (x : Eddy) (w : Nat) : Block :=
  putEddy b 0 { x with run := .running, imem := [(x.pc, BitVec.ofNat 128 w)] }

/-- An Eddy with a0 at 0 and a1 at 0x1000. -/
def ed : Eddy := writeReg Eddy.fresh 0x21 0x1000 false

/-- A Region of 64 KiB at the bottom of C0 that the job holds. -/
def low (k : RegionKind) : Region := { newRegion 0 0 0x10000 k false 0 with held := true }

/-- The block with that Region under ID 1. -/
def upWith (k : RegionKind) : Block := putRegion up 1 (low k)

/-! ## Decode and issue (03_sequencer) -/

/-- Operand fields with which each instruction row decodes: address registers where the rule asks for one. -/
def operands (cls op : Nat) : List (Nat × Nat) :=
  match cls with
  | 1 => if op = 12 then [(110, 0x39)] else if op = 14 ∨ op = 15 then [(104, 0x20), (96, 1)] else []
  | 2 => [(110, 0x21), (104, 0x20)]
  | 3 => if op ≤ 1 then [(104, 0x20)] else []
  | 4 => if op = 1 then [(108, 1), (97, 0x20), (88, 1), (81, 1)] else if op = 2 then [(108, 1)]
    else if op = 3 then [(108, 1), (98, 0x20), (42, 0x20)] else if op = 6 then [(107, 0x20)] else if op = 0 then []
    else [(84, 0x20), (77, 0x20), (73, 0xA), (65, 0x20), (58, 0x20)]
  | 5 => [(109, 0x21), (102, 0x20), (84, 0xA), (80, 0xA)] ++ (if 2 ≤ vecSources op then [(95, 0x20)] else []) ++
    (if op = 3 then [(88, 0x20)] else [])
  | 6 => [(97, 0x20), (93, 0xA), (71, 0x20)]
  | 7 => [(110, 0x20), (86, 0x20)] ++ (if op = 1 ∨ op = 2 then [(104, 0x21), (98, 0x20)] else []) ++
    (if op = 2 then [] else [(92, 0x21)])
  | 8 => [(110, 0x20)]
  | 9 => if op = 3 then [] else [(87, 1)]
  | _ => []

/-- The word of a row with those fields and some more. -/
def rowWord (cls op : Nat) (more : List (Nat × Nat)) : Nat := word cls op (operands cls op ++ more)

/-- The row of a CLASS and OP is ready with the Eddy and the further fields. -/
def readyAt (b : Block) (x : Eddy) (cls op : Nat) (more : List (Nat × Nat)) : Bool :=
  ready (atWord b x (rowWord cls op more)) 0 (rowWord cls op more) cls op

/-- Every instruction row is ready on some Eddy: FalsePredicateOnlyGoesOn, ControlInstructionsComplete,
ScalarOperationsComplete, GateInstructionsSend, VectorOperationsComplete and the other statements about rows. -/
theorem test_rows_ready : instructionRows.all (fun r => readyAt up ed r.2.1 r.2.2 []) = true := by decide +kernel

/-- UndecodedWordRaisesIllegal: a reserved CLASS stands at the index. -/
theorem test_undecoded_word : (atIndex (atWord up ed (word 10 0 [])) 0 (word 10 0 []) && !legal (word 10 0 [])) = true := by
  decide +kernel

/-- FalsePredicateOnlyGoesOn: every row with the inverted p0, and with a poisoned p1. -/
theorem test_false_predicate : instructionRows.all (fun r =>
    let w := rowWord r.2.1 r.2.2 [(116, 8)]
    let v := rowWord r.2.1 r.2.2 [(116, 1)]
    let y := writeReg ed 0x39 1 true
    atIndex (atWord up ed w) 0 w && decodesTo w r.2.1 r.2.2 && !predPoison ed 8 && !predHolds ed 8 && insPred w == 8 &&
      atIndex (atWord up y v) 0 v && decodesTo v r.2.1 r.2.2 && predPoison y (insPred v)) = true := by decide +kernel

/-- An Eddy at index 5 with two loops whose inner one ends there. -/
def looping : Eddy := { writeReg ed 0x31 2 false with pc := 5, loops := [⟨1, 3, 5⟩, ⟨2, 1, 9⟩] }

/-- WhereIssueGoesOn: a counter above 1, one at 1 with no other loop, and no loop at the index. -/
theorem test_issue_goes_on :
    looping.dapStep = false ∧ (readReg looping 0x31).toNat = 2 ∧
      (readReg { writeReg looping 0x31 1 false with loops := [⟨1, 3, 5⟩] } 0x31).toNat = 1 ∧ ed.loops = [] := by
  decide +kernel

/-- ControlInstructionsComplete: BRR at 16,383 and 16,384; CALL with 7 and 8 entries; RET with one and none; LOOP from a
register; HALT and RDCTR as they stand. -/
theorem test_control_clauses :
    (let at' (x : Eddy) (op : Nat) (more : List (Nat × Nat)) :=
       fetched (atWord up x (rowWord 0 op more)) 0 (rowWord 0 op more) 0 op
     at' (writeReg ed 0 16383 false) 2 [] && at' (writeReg ed 0 16384 false) 2 [] &&
       at' { ed with calls := List.replicate 7 1 } 3 [] && at' { ed with calls := List.replicate 8 1 } 3 [] &&
       at' { ed with calls := [3] } 4 [] && at' ed 4 [] && at' (writeReg ed 0 1 false) 5 [(99, 4), (98, 1)] &&
       at' { ed with loops := List.replicate 8 ⟨1, 0, 9⟩ } 5 [(99, 4), (0, 3)] && at' ed 5 [(99, 4)] &&
       !isLiveCounter ed 0 && !regPoison ed 0) = true := by decide +kernel

/-- RegisterWriteReadsBack: the last specifier of each register kind. -/
theorem test_register_kinds : (readReg (writeReg ed 0x1F (2 ^ 63) true) 0x1F = 2 ^ 63) ∧
    regPoison (writeReg ed 0x1F (2 ^ 63) true) 0x1F = true ∧ readReg (writeReg ed 0x38 0 true) 0x38 = 1 ∧
    readReg (writeReg ed 0x2F (2 ^ 48 + 3) false) 0x2F = 3 := by decide +kernel

/-- LoadReadsEightBytes: an address inside, unaligned, in no Region, and in another Eddy's banks. -/
theorem test_lds_clauses :
    (let b := upWith .plain
     let own (a : Nat) := isLeeAddr a && addrEddy a == 0 && decide (addrOff a < 0x0C000000) && isBacked b a
     readyAt b ed 1 14 [(0, 0xFFF8)] && own 0xFFF8 && (heldRegionAt b 0xFFF8).any (fun r => r.kind != .stash) &&
       readyAt b ed 1 14 [(0, 4)] && own 4 && readyAt b ed 1 14 [(0, 0x10000)] && own 0x10000 &&
       (heldRegionAt b 0x10000).isNone && readyAt b ed 1 14 [(0, 0xC00000)] && !own 0xC00000 &&
       !isLiveCounter ed 0 && !regPoison ed 0x20) = true := by decide +kernel

/-- StoreWritesEightBytes: a plain Region, and a reduction header behind its ARMWORD. -/
theorem test_sts_clauses :
    (readyAt (upWith .plain) ed 1 15 [(0, 0xFFF8)] && isBacked (upWith .plain) 0xFFF8 &&
      (heldRegionAt (upWith .plain) 0xFFF8 == some (low .plain)) &&
      readyAt (upWith .reduce) ed 1 15 [(0, 8)] && (heldRegionAt (upWith .reduce) 8 == some (low .reduce))) = true := by
  decide +kernel

/-- MovCopiesGranules: a count of 0, of 1, of 4,096 and of 4,097; a MOV that waits. -/
theorem test_mov_clauses :
    (let b := upWith .plain
     let y := writeReg ed 0 4097 false
     readyAt b ed 2 0 [] && readyAt b ed 2 0 [(0, 1)] && readyAt b ed 2 0 [(0, 0xF00)] && readyAt b y 2 0 [(97, 1)] &&
       (checkAny b false 0 (16 * 0xF00)).isOk && (checkAny b true 0x1000 (16 * 0xF00)).isOk && !seamDown b && !b.power.hold &&
       (getEddy (putEddy b 0 { ed with wait := .mov }) 0).wait == .mov) = true := by decide +kernel

/-- GateInstructionsSend: a Gate by register, a Gate of a Gated Current, a fence whose conditions are met and a wake. -/
theorem test_gate_send :
    (let gone := { up with power := { up.power with gated := [(1, 2)] } }
     let f := putEddy up 0 { ed with wait := .fence 0 }
     fetched (atWord up ed (rowWord 9 0 [(86, 1)])) 0 (rowWord 9 0 [(86, 1)]) 9 0 && !regPoison ed 0 &&
       fetched (atWord gone ed (rowWord 9 1 [(103, 1024)])) 0 (rowWord 9 1 [(103, 1024)]) 9 1 && !curUsable gone 1 &&
       (getEddy f 0).wait == .fence 0 && fenceMet f 0 0 &&
       !f.power.hold && !(putEddy up 0 { ed with wait := .gate 5 true }).power.hold &&
       (getEddy (putEddy up 0 { ed with wait := .gate 5 true }) 0).wait == .gate 5 true) = true := by decide +kernel

/-- A message of Eddy 0 to Gate 5, which the job holds with a value. -/
def gateWith (k : GateMsgKind) (held : Bool) (v : Nat) : Block :=
  putGate { putEddy up 0 ed with gateMsgs := [⟨5, 0, 0, 0, k⟩] } 5 { Gate.fresh with held := held, value := v }

/-- GateCountsAndReleases: a signal to a Gate held and not held, a wait, and a barrier's first and last arrival. -/
theorem test_gate_counts :
    (let m (k : GateMsgKind) : GateMsg := ⟨5, 0, 0, 0, k⟩
     let s := gateWith (.signal 65535) true 0xFFFFFFFF
     let n := gateWith (.signal 1) false 0
     let w := gateWith (.wait 3) true 3
     let r := gateWith (.bar 2) true 0
     let q := putGate r 5 { Gate.fresh with held := true, barUse := true, barN := 2, value := 1, barWaits := [7] }
     (nthMsg (fun m => m.gate == 5 && isSignal m) 0 s.gateMsgs 0 == some (0, m (.signal 65535))) &&
       released s (m (.signal 65535)) && (getGate s 5).held &&
       (nthMsg (fun m => m.gate == 5 && isSignal m) 0 n.gateMsgs 0 == some (0, m (.signal 1))) && !(getGate n 5).held &&
       (nthMsg (fun m => m.gate == 5 && !isSignal m) 0 w.gateMsgs 0 == some (0, m (.wait 3))) && (getGate w 5).held &&
       (nthMsg (fun m => m.gate == 5 && !isSignal m) 0 r.gateMsgs 0 == some (0, m (.bar 2))) && released r (m (.bar 2)) &&
       [s, n, w, r, q].all (fun b => !b.power.hold) && (getGate r 5).barN == 0 && (getGate q 5).barUse && (getGate q 5).value == 1) = true := by decide +kernel

/-! ## Units of an Eddy (04_vanes_and_accumulators, 05_numerics, 07_streams) -/

/-- A value spelled in n bytes from address a on, zero bytes left out. -/
def cells (a n v : Nat) : List Host.Cell :=
  (List.range n).filterMap (fun i => let y := (v >>> (8 * i)) % 256
                                     if y = 0 then none else some (a + i, BitVec.ofNat 8 y))

/-- The block with n bytes of a value from address a on as all of Lee memory. -/
def mem (b : Block) (a n v : Nat) : Block := { b with lee := { b.lee with mem := cells a n v } }

/-- A check answers with a number. -/
def gives (r : Except Nat Nat) (n : Nat) : Bool :=
  match r with
  | .ok v => v == n
  | .error _ => false

/-- A descriptor of 32 bytes in two elements from offset 0 to offset 0x2000 of Region 1 (R197). -/
def copyDesc : Nat :=
  2 ^ 48 + (2 ^ 48 + 0x2000) * 2 ^ 64 + 2 ^ 128 + 2 * 2 ^ 160 + 2 ^ 192 + 2 ^ 224 + 2 ^ 256

/-- Stream 0, which the job holds, with or without that transfer active. -/
def copying (on : Bool) : Block :=
  putStream (mem (upWith .plain) 0 64 copyDesc) 0
    { Stream.fresh with held := true, active := if on then some (xferOf copyDesc 0) else none }

/-- StreamInstructionsComplete: a status; SWAIT met and not met; ARM refused with 0x10A and accepted; REARM. -/
theorem test_stream_instructions :
    (let idle := copying false
     let busy := copying true
     readyAt idle ed 3 5 [] && readyAt busy ed 3 2 [] && (getStream busy 0).armed.length == 1 &&
       readyAt busy ed 3 2 [(76, 1)] && readyAt idle ed 3 0 [] && readyAt busy ed 3 1 [] && (strSid ed 0 (word 3 0 [])).isOk &&
       (checkOwn idle 0 false 0 64).isOk && markedNat (leeBytesAt idle 0 64).1 == (copyDesc, false) &&
       (armCheck idle 0 false copyDesc 0).isOk && (armCheck busy 0 true copyDesc 0).isOk &&
       !(armCheck (upWith .plain) 0 false copyDesc 0).isOk && !isLiveCounter ed 0 && !regPoison ed 0) = true := by
  decide +kernel

/-- StreamInstructionsComplete: RWAIT and RFREE of a ring of C0 with 16 bytes, by a register that names it; entries at
the head of a queue. -/
theorem test_ring_instructions :
    (let b := putRegion up 1 { low .ring with ringW := 16 }
     let y := writeReg ed 0 (16 * 2 ^ 32 + 1) false
     readyAt b y 3 3 [] && readyAt b y 3 4 [] && (ringOf b 0 1).isOk && rwaitMet { low .ring with ringW := 16 } 16 &&
       queueOf (pushQueue ed 3 .plain) 3 == [.plain] && !b.power.hold && queueOf (pushQueue ed 3 (.swait 0 0 1)) 3 == [.swait 0 0 1] &&
       (getStream b 0).armed.length == 0) = true := by decide +kernel

/-- VectorOperationsComplete: every row with a count of 2 and of 0, sources and destination in a held Region. -/
theorem test_vector_rows :
    (let b := upWith .plain
     (List.range 15).all (fun op =>
       readyAt b ed 5 op [(0, 2)] && readyAt b ed 5 op [] &&
         gives (vecCount ed (rowWord 5 op [(0, 2)])) 2) &&
       (checkSource (atWord b ed 0) 0 0x20 0xA 2).isOk && (checkDest (atWord b ed 0) 0 0x21 0xA 2).isOk) = true := by
  decide +kernel

/-- ReductionsComplete: every row without segments, and with two segments of two elements. -/
theorem test_reduction_rows :
    (let b := upWith .plain
     let segs := [(0, 4), (77, 2), (71, 1)]
     (List.range 5).all (fun op => readyAt b ed 6 op [(0, 4)] &&
         readyAt b ed 6 op segs && gives (vecCount ed (rowWord 6 op segs)) 4) &&
       (checkSource (atWord b ed 0) 0 0x20 0xA 4).isOk && (checkOwn b 0 true 0x1000 16).isOk && !regPoison ed 0x21 &&
       !isLiveCounter ed 0 && decide (2 ^ 63 - 1 < (2 ^ 63 : Int))) = true := by decide +kernel

/-- A descriptor of one row of eight elements: pitches, formats and SSRC (R138). -/
def quantDesc (sp dp ofmt ifmt ssrc : Nat) : Nat :=
  1 + 8 * 2 ^ 32 + sp * 2 ^ 64 + dp * 2 ^ 96 + ifmt * 2 ^ 128 + ofmt * 2 ^ 132 + ssrc * 2 ^ 144

/-- A quantiser row is ready with its descriptor at 0, and its pass succeeds. -/
def quantOk (op desc : Nat) (run : Block → Nat → Nat → QDesc → Except Nat Block) : Bool :=
  let w := rowWord 7 op []
  let b := atWord (mem (upWith .plain) 0 48 desc) ed w
  let d := qDescOf ((leeBytesAt b 0 48).1.map (·.1))
  ready b 0 w 7 op && gives (qAddr ed 0x20) 0 && (checkOwn b 0 false 0 48).isOk &&
    !(leeBytesAt b 0 48).1.any (·.2) && qDescOk op (fld w 85 84) d && decide (0 < d.rows) && decide (0 < d.cols) &&
    (run b 0 w d).isOk

/-- QuantiserInstructionsComplete: each row with one group. -/
theorem test_quantiser_rows :
    (quantOk 0 (quantDesc 16 0 0 8 0) runScan && quantOk 1 (quantDesc 16 16 4 8 2) runConvert &&
      quantOk 2 (quantDesc 16 16 8 4 2) runExpand && quantOk 3 (1 + 8 * 2 ^ 32) runRmerge) = true := by decide +kernel

/-- FiniteCodesConvertToThemselves: the largest finite FP16 code, the smallest FP4 code. -/
theorem test_finite_codes : ((fpDecode 9 0x7BFF).isFin && (fpDecode 2 1).isFin && !(fpDecode 9 0x7C00).isFin) = true := by
  decide +kernel

/-- An FP32 Tile of one column in Vane 0's shadow. -/
def tile (fmt : Nat) : Tile := ⟨fmt, 64, 64, 0, 0, [], false⟩

/-- MatInstructionsIssue: each instruction with a count of 1, those with a count also with 0; TLOAD from Lee and from a
feed; a drain to Lee and to a port. -/
theorem test_mat_issue :
    (let b := upWith .plain
     let full := putVane ed 0 ⟨none, .full (tile 4), [], false⟩
     let fed := { b with feeds := [(0, ⟨true, 0, 0, true, []⟩)] }
     let ported := putPort b 0 { Port.fresh with state := 1 }
     let pitch := writeReg ed 0 16 false
     readyAt b ed 4 0 [(0, 1), (103, 8191)] && readyAt b ed 4 0 [] && readyAt b ed 4 1 [] && !vaneAbsent ed [0] &&
       (checkOwn b 0 false 0 (imageBytes 0 0 0)).isOk && readyAt fed ed 4 1 [(103, 1)] && (getFeed fed 0).bound &&
       !(vaneAhead ed 0).1 && readyAt b full 4 2 [] && (vaneAhead full 0).1 && !(vaneAhead full 0).2 &&
       readyAt b ed 4 6 [] && (checkOwn b 0 true 0 512).isOk && readyAt b pitch 4 3 [(0, 1)] && readyAt b pitch 4 3 [] &&
       readyAt b ed 4 4 [(0, 1)] && readyAt b ed 4 5 [(0, 1)] && readyAt b ed 4 5 [] &&
       (checkOwn b 0 false 0 1296).isOk && (checkRows b 0 true 0 0 1 1).isOk &&
       ready (atWord ported ed (word 4 4 [(83, 1), (77, 0x20), (73, 0xA), (65, 0x20), (0, 1)])) 0
         (word 4 4 [(83, 1), (77, 0x20), (73, 0xA), (65, 0x20), (0, 1)]) 4 4 && portUp ported 0 && !seamDown ported) = true := by
  decide +kernel

/-- The row of an MMA of one row on Vane 0. -/
def mma1 : MmaOp := ⟨0, [0], 4, 0, 0, 0, 0, 16, 0, 0, 0, 0, 1, 0⟩

/-- MmaOp's checks for the word of the statement MatInstructionsIssue. -/
theorem test_mma_rows : (checkMmaRows (upWith .plain) 0 mma1).isOk = true ∧ mmaSlot mma1 0 0 < 8192 := by decide +kernel

/-- A TLOAD whose load has begun, and a drain of one Slot to Lee. -/
def tload1 : TloadOp := ⟨0, [(0, 0)], [0], 4, false, 0, 0, 64, 64, 0, 0, false, [], false⟩
def drain1 : DrainOp := ⟨0, false, 0, 0, 1, 0, false, 0x4000, 256, 0, 0, 0, 0, 0, 0xA, 0, false, 0, [], false, []⟩

/-- MatOperationsTakeEffect and IntegerRowAddsDotProducts: a load that has begun, from Lee and from a feed; a swap of a
full shadow; a row that may enter and adds, before its first one faults and in a later one; a drain whose Slot reads out,
before its first faults and in a later one; an SCLR alone. -/
theorem test_mat_effects :
    (let b := upWith .plain
     let loads := { ed with matOps := [(0, .tload tload1)] }
     let swaps := { putVane ed 0 ⟨none, .full (tile 4), [], false⟩ with matOps := [(0, .tswap 0 [0])] }
     let rows := { putSlot (putVane ed 0 ⟨some (tile 4), .empty, [], false⟩) 0 { Slot.fresh with mode := 0 } with matOps := [(0, .mma mma1)] }
     let dry := { ed with matOps := [(0, .mma mma1)] }
     let later := { mma1 with rows := 2, next := 1 }
     let drains := { ed with matOps := [(0, .drain drain1)] }
     let failed := putSlot drains 0 { Slot.fresh with resfail := true }
     let feeds := { tload1 with fromFeed := true, got := List.replicate 4096 0 }
     findOp (fun o => if loadsVane 0 o then isTload o else none) 0 loads.matOps == some (0, tload1) &&
       tload1.begun.contains 0 && loads.vaneErr.isEmpty && !leeClash loads [] [(0, 4096)] [] &&
       feeds.todo.head?.map (·.1) == some 0 && feeds.got.length == imageBytes 4 0 0 &&
       takenUp swaps 0 && swapReady swaps [] 0 [0] == [0] && shadowFull (getVane swaps 0) &&
       findOp isMma 0 rows.matOps == some (0, mma1) && rowMayEnter rows (rows.matOps.take 0) mma1 && mmaTakesUp rows 0 &&
       mmaTakesUp (setQueue rows 4 [.mma 0]) 0 && mmaFault rows [] mma1 == none && mmaFault dry [] mma1 == some 0x303 &&
       (addRows 0 mma1 0 [] 0 mma1.vanes.zipIdx (putEddy b 0 rows)).isOk &&
       !(addRows 0 later 1 [] 0 later.vanes.zipIdx (putEddy b 0 dry)).isOk && later.next != 0 &&
       findOp isDrain 0 drains.matOps == some (0, drain1) && drainMayRead drains [] 0 drain1 &&
       drainStops (putEddy b 0 drains) 0 drain1 == none && (drainSlot (putEddy b 0 drains) 0 0 drain1).isOk &&
       (drainStops (putEddy b 0 failed) 0 drain1).isSome &&
       !(drainSlot (putEddy b 0 failed) 0 0 { drain1 with rows := 2, next := 1, sstr := 0 }).isOk &&
       queueOf (setQueue ed 4 [.mat 0]) 4 == [.mat 0] && !b.power.hold && !(putEddy b 0 rows).power.hold &&
       (getVane rows 0).active == some (tile 4) && (getSlot rows 0).mode == 0 && (getSlot rows 0).k == 0) = true := by
  decide +kernel

/-! ## Steps, streams and Regions (07_streams, 08_lee_memory) -/

/-- StepRunsFrontCommand, FusesStayBlown, MemoryStaysCanonical, BuffersStayBounded, InstructionsWriteOnlyTheirFootprint:
a state with a command in front that meets the premises and has a next state. -/
theorem test_step_premises :
    memoryWf State.reset.blk = true ∧ buffersBounded State.reset.blk ∧
      (∃ t, step { State.reset with pending := [.nop 0] } = .next t) ∧ (∃ t, exec (.nop 0) State.reset = .next t) ∧
      (∃ t, step State.reset = .next t) := by
  refine ⟨by decide +kernel, ⟨fun _ => (by decide +kernel : linkBounded Link.fresh = true),
    fun _ => (by decide +kernel : portBounded Port.fresh = true), by decide +kernel⟩, ⟨_, rfl⟩, ⟨_, rfl⟩, ⟨_, rfl⟩⟩

/-- A block with no Current and no seam register written has no error on a path: the statements that ask pathsClean. -/
theorem test_paths_clean (b : Block) (h : b.currents = []) (k : b.seam = up.seam) : pathsClean b := by
  refine ⟨fun n => ?_, ?_, ?_⟩
  · simp only [getCur, h]; rfl
  · rw [k]; rfl
  · rw [k]; rfl

/-- StreamGrantCopiesWalk: the transfer of test_stream_instructions is the one with demand. -/
theorem test_grant_premises :
    (let b := copying true
     let x := xferOf copyDesc 0
     grantOrder b 0 == [(0, (getStream b 0).tte, 0)] && (getStream b 0).active == some x && !x.fine && !x.index &&
       epKind x.src == 0 && epKind x.dst == 0 && epLee b x.src == some (low .plain) && epLee b x.dst == some (low .plain) &&
       b.lee.err.isEmpty && decide (0 < x.eb) && !seamDown b && b.currents.isEmpty && b.seam == up.seam) = true := by
  decide +kernel

/-- ArbiterGrantsByDeadline: two requests with counts of 1,022 and 5, and with one count of 1,023. -/
theorem test_arbiter_premises :
    ([(7, 3), (9, 1)].map (·.2)).Nodup ∧
      (let c (n : Nat) := ({ up with arbiters := [(4, [(1, n), (3, 5)])] } : Block)
       let at_ (n q : Nat) := Table.get 0 (Table.get [] (c n).arbiters 4) q
       at_ 1022 3 < 1023 ∧ at_ 1022 1 < 1023 ∧ 1023 ≤ at_ 1023 1) := by decide +kernel

/-- The transfer of copyDesc with a remote destination at offset 0 of store 0, context 0. -/
def toRemote : Xfer := { xferOf copyDesc 0 with dst := 5 * 2 ^ 60 }

/-- The transfer of copyDesc into the ring of Region 2. -/
def toRing : Xfer := { xferOf copyDesc 0 with dst := 2 * 2 ^ 48 }

/-- Stream 0 with an active transfer, changed, beside a ring in Region 2. -/
def running (x : Xfer) (f : Stream → Stream) : Block :=
  putRegion (putStream (copying false) 0 (f { Stream.fresh with held := true, active := some x })) 2
    { low .ring with base := 0x10000 }

/-- StreamLifeCycle: a pending transfer, an element to publish, a running Lee clock, a due miss, a stall, an abort and a
complete transfer. -/
theorem test_stream_life :
    (let x := xferOf copyDesc 0
     let p := running x (fun s => { s with active := none, pending := some x })
     let r := running toRing (fun s => { s with delivered := 32, granted := 32 })
     let m := running x (fun s => { s with tte := 0 })
     let f := running toRemote (fun s => { s with bad := some (0x110, 0, 0) })
     let z := running x (fun s => { s with stalled := true })
     let d := running x (fun s => { s with delivered := 32, granted := 32 })
     [p, r, m, f, z, d].all (fun b => !b.power.hold) && (getStream p 0).active.isNone && (getStream p 0).pending == some x && x.ending.isNone && !portLost p x &&
       !epIsRing p x.dst && epLee r toRing.dst == some { low .ring with base := 0x10000 } && toRing.eb == 16 &&
       decide (((getStream r 0).published + 1) * toRing.eb ≤ (getStream r 0).delivered) && leeRuns p 0 &&
       !armRing x.arm.toNat && !(getStream m 0).miss && missDue m (getStream m 0) x && (getStream m 0).active == some x &&
       (getStream f 0).bad == some (0x110, 0, 0) && !(getStream f 0).stalled && !readsOut f 0 && epKind toRemote.src != 5 &&
       inFlight (getStream f 0) == 0 && curUsable z 0 && (getStream z 0).stalled && (getStream z 0).staged.isEmpty &&
       canComplete d 0 (getStream d 0) x && !isRemote x && x.total == 32) = true := by decide +kernel

/-- An entry of a translation table: store 0, page 0, link 0, read and write. -/
def pageEntry : Nat := 2 ^ 127 + 2 ^ 125 + 2 ^ 124

/-- A block in which stream 0 goes to a remote store whose table stands in Region 2 at 0x10000. -/
def remote : Block :=
  let b := running toRemote id
  let b := putRegion b 2 { newRegion 0 0x10000 0x1000 .plain true 0 with held := true }
  let b := putLink b 0 { getLink b 0 with state := 2 }
  putCtx (mem b 0x10000 16 pageEntry) 0 { getCtx b 0 with valid := true, region := 2, entries := 1 }

/-- StreamLifeCycle, the translation: the table is searched and gives a page. ContextValidChecksTable: the table is in
order. -/
theorem test_translation :
    (let b := remote
     let q := getStream b 0
     let r := searchTable 18 b 0x1000 0 1 0 none
     q.active == some toRemote && isRemote toRemote && !q.stalled && q.bad.isNone && toRemote.ending.isNone &&
       decide (q.granted < toRemote.total) && !pageCovers q toRemote q.granted && leeRuns b 0 &&
       (getRegion b 2).any (fun g => regionAddr g == 0x10000) && (getCtx b 0).region == 2 && (getCtx b 0).valid &&
       r.1 == some (BitVec.ofNat 128 pageEntry, false) && remoteStore toRemote == 0 && remoteOff toRemote 0 == 0 &&
       (pageOf r.2 pageEntry 0 0 true).isSome && (tableOk b (getCtx b 0) 2).1 && b.lee.err.isEmpty &&
       !seamDown b) = true := by decide +kernel

/-- A reduction Region of 64 KiB whose data granules start at 64, under ID 1, with a STATUS word. -/
def reducing (zero : ZeroWhy) (status : Nat) : Block :=
  let b := putRegion up 1 { low .reduce with expect := 2, gen := true, gate := 5, gcount := 1, zero := zero }
  mem b 8 8 status

/-- Fabric port 0 holds one operation. -/
def withOp (b : Block) (o : RxOp) : Block := putPort b 0 { getPort b 0 with ops := [(0, 0, o)] }

/-- The Region of ID 1. -/
def region1 (b : Block) : Region := (getRegion b 1).getD (low .plain)

/-- AtomicsApplyAtRegions: the last granule of a PLAIN Region, the first of an ARMED one, one beyond the end, a header
granule, a Region that is not ARMED, one that an arm zeroes. -/
theorem test_atomics :
    (let plain := upWith .plain
     let armed := reducing .none (2 ^ 63)
     let late := reducing .none 0
     let busy := reducing .arm 0
     (getPort (withOp plain (.gran 1 0 0xFFF0 0 false)) 0).ops == [(0, 0, .gran 1 0 0xFFF0 0 false)] &&
       (getRegion plain 1).isSome && (region1 plain).size == 0x10000 && regionAddr (region1 plain) % 16 == 0 &&
       (region1 plain).kind == .plain && plain.lee.err.isEmpty && redArmed armed (region1 armed) &&
       (region1 armed).kind == .reduce && (region1 armed).zero == .none && !redArmed late (region1 late) &&
       (region1 busy).zero == .arm && plain.currents.isEmpty && plain.seam == up.seam && [plain, armed, late, busy].all (fun b => !b.power.hold) &&
       !seamBars plain (portHalf 0) (curHalf 0) &&
       seamBars { plain with seam := { plain.seam with trained := true } } (portHalf 63) (curHalf 0)) = true := by
  decide +kernel

/-- ContributionsCount: an end that is the last of two, one that is the first, one that is late, one that is held,
and one behind a granule. -/
theorem test_contributions :
    (let armed := reducing .none (2 ^ 63 + 2 ^ 32)
     let st := redStatus armed (region1 armed)
     !(withOp armed (.cend 1)).power.hold && (getPort (withOp armed (.cend 1)) 0).ops == [(0, 0, .cend 1)] && redArmed armed (region1 armed) &&
       fld st 47 32 + 1 == (region1 armed).expect && fld (redStatus (reducing .none (2 ^ 63)) (region1 armed)) 47 32 == 0 &&
       regionAddr (region1 armed) == 0 && (region1 (reducing .arm 0)).zero == .arm && !redArmed (reducing .none 0) (region1 armed) &&
       isGranOf 0 1 (0, 0, .gran 1 0 64 0 false)) = true := by decide +kernel

/-- ArmsAndZero: arms that are accepted with EXPECT 1, refused with EXPECT 0 and with GCOUNT 0, poisoned, on an ARMED
Region, and one that another zeroing holds; the ends of the three kinds of zeroing, with a range of the first and the last
granule; a scrub of the first and the last bank row. -/
theorem test_arms :
    (let with_ (q : ArmReq) := { low .reduce with armReqs := [q] }
     let idle := with_ ⟨1#64, false, .host 64⟩
     let b := putRegion up 1 idle
     let on := reducing .none (2 ^ 63)
     let y (z : ZeroWhy) := getRegion (putRegion up 1 { low .reduce with zero := z }) 1
     !b.power.hold && !redArmed b idle && idle.zero == .none && fld (1#64).toNat 15 0 == 1 && regionAddr idle == 0 && b.lee.err.isEmpty &&
       (with_ ⟨0#64, false, .eddy 0 0⟩).armReqs == [⟨0#64, false, .eddy 0 0⟩] && fld (0#64).toNat 15 0 == 0 &&
       bit (2 ^ 61 + 1) 61 && fld (2 ^ 61 + 1) 47 32 == 0 && (with_ ⟨1#64, true, .eddy 0 0⟩).armReqs.length == 1 &&
       redArmed on (region1 on) && leeRuns up 0 && (y .arm).any (fun q => q.zero == .arm && q.waiting.isEmpty) &&
       (y (.host 0 0 16)).any (fun q => q.zero == .host 0 0 16 && zeroRange q == (0, 16)) &&
       (y (.host 0 0xFFF0 16)).any (fun q => zeroRange q == (0xFFF0, 16)) &&
       (y (.free none)).any (fun q => q.zero == .free none) && (low .reduce).size % 16 == 0 &&
       (List.range 16).all (fun i => isBacked up i && addrCur i == 0 && isBacked up (0xFFF0 + i)) &&
       (let b := putBank (updCur up 0 (fun c => { c with scrubEn := true })) 0 0 { getBank up 0 0 with row := 8191 }
        (banksInService b 0).contains 0 && (getCur b 0).scrubEn && (getBank b 0 0).row == 8191)) = true := by
  decide +kernel

/-! ## Codec units (06_furl_unfurl) -/

/-- CodecJobsRun, the instructions: COD rows ready on an Eddy whose address is in a held Region; the job described is
DONE or not; a CWAIT at the head of the queue. -/
theorem test_codec_rows :
    (let b := upWith .plain
     gives (codAddr b 0 (rowWord 8 0 []) 128) 0 && readyAt b ed 8 0 [] && readyAt b ed 8 1 [] && readyAt b ed 8 2 [] &&
       !b.power.hold && !(cwaitMet b 0).1 && (cwaitMet (mem b 0x40 2 0x8000) 0).1 && (queueOf ed 8).isEmpty &&
       queueOf (pushQueue ed 8 (.cwait 0)) 8 == [.cwait 0]) = true := by decide +kernel

/-- A descriptor of an unpaired job from 0x1000 of Region 1 to 0x4000 of it: 64 bytes in, 4,096 out (R188). -/
def codDesc : Nat := (2 ^ 48 + 0x1000) + (2 ^ 48 + 0x4000) * 2 ^ 64 + 64 * 2 ^ 256 + 4096 * 2 ^ 288

/-- The job of that descriptor, at address 0. -/
def cjob (unf : Bool) : CodJob := codJobOf unf 0 codDesc

/-- An Eddy whose COD queue has come to a FURL or UNFURL. -/
def coder : Eddy := pushQueue ed 8 .codJob

/-- CodecJobsRun, acceptance: offers of two Eddies and of the host for units of their Current; a clean and a poisoned
descriptor; jobs that are accepted, have no input, and break a field rule. -/
theorem test_codec_accept :
    (let b := putEddy (putEddy (mem (upWith .plain) 0 64 codDesc) 0 coder) 1 coder
     let b := { b with codOffers := [⟨.eddy 0 5, false, 0, 0, 0⟩, ⟨.eddy 1 0, true, 0, 0x10, 0⟩, ⟨.host 64, false, 0, 1, 0⟩] }
     let p := { b with lee := { b.lee with poison := [0] } }
     let taken := leaveQueue { b with codOffers := dropAt b.codOffers 0 } (.eddy 0 5)
     unitExists 0x200 && unitRuns b 0x200 && !b.power.hold && decide ((getCodec b 0x200).queue.length < 4) &&
       firstOffer b 0x200 [] b.codOffers == some (0, ⟨.eddy 0 5, false, 0, 0, 0⟩) && b.lee.err.isEmpty && !seamDown b &&
       firstOffer b 0x100 [] b.codOffers == some (1, ⟨.eddy 1 0, true, 0, 0x10, 0⟩) &&
       firstOffer b 0x201 [] b.codOffers == some (2, ⟨.host 64, false, 0, 1, 0⟩) &&
       markedNat (leeBytesAt b 0 64).1 == (codDesc, false) && (markedNat (leeBytesAt p 0 64).1).2 &&
       codRefusal taken 0x200 true (cjob false) codDesc == none &&
       codRefusal taken 0x200 true (codJobOf false 0 (codDesc - 64 * 2 ^ 256)) (codDesc - 64 * 2 ^ 256) == some 0 &&
       codRefusal taken 0x200 true (codJobOf false 0 (codDesc + 1)) (codDesc + 1) == some 0x20A) = true := by decide +kernel

/-- CodecJobsRun, start and end: a job at the head of a queue to Lee, one to a tile feed that is free or bound to it, one
to a port and one to a link that are not up, and runs whose end is known or not. -/
theorem test_codec_start :
    (let b := upWith .plain
     let feed := { cjob true with dst := 3 * 2 ^ 60 }
     let q := putCodec b 0x100 { getCodec b 0x100 with queue := [cjob true] }
     let bound := putFeed b (feedOf 0x100 feed) ⟨true, 0, 0, true, []⟩
     (getCodec q 0x100).queue == [cjob true] && (getCodec q 0x100).run.isNone && !(cjob true).toFeed &&
       unitRuns q 0x100 && unitExists 0x100 && !q.power.hold && feed.toFeed && !codPortLost b (cjob true) && !codLinkLost b (cjob true) &&
       codPortLost b { cjob true with dst := 2 ^ 60 } && codLinkLost b { cjob true with dst := 2 * 2 ^ 60 } &&
       !(getFeed b (feedOf 0x100 feed)).bound && feedReady bound 0x100 feed && curUsable b (unitCur 0x100) &&
       codEnds { CodRun.fresh (cjob true) with ending := some 0 } == some 0 &&
       codEnds { CodRun.fresh (cjob true) with ending := some 0x201 } == some 0x201 &&
       codEnds (CodRun.fresh (cjob true)) == none) = true := by decide +kernel

/-- A block whose unit u runs r, with a value from 0x1000 on. -/
def coding (u v : Nat) (r : CodRun) : Block :=
  let b := mem (upWith .plain) 0x1000 16 v
  putCodec b u { getCodec b u with run := some r }

/-- CodecBlocksMove, Furl: a job with input left, whose block fits and does not; one with a held block that is its last;
a block that goes to a link. -/
theorem test_furl_moves :
    (let r := CodRun.fresh (cjob false)
     let h : HeldBlk := ⟨⟨0, 0, 64, 0, List.replicate 64 0, false⟩, none, true, 64, 0⟩
     let z := { r with held := [h], taken := 64, dataBlocks := 1 }
     let b := coding 0x200 0 r
     let toLink := { cjob false with dst := 2 * 2 ^ 60 + 2 ^ 46 }
     let up0 := putLink b 0 { getLink b 0 with state := 2, credit1 := 1 }
     (getCodec b 0x200).run == some r && !r.job.unfurl && furlGoes r && decide (r.held.length < 2) && unitRuns b 0x200 &&
       !codecBarred b 0x200 && (furlInput b 0x200 r).isSome && !b.power.hold && !up0.power.hold &&
       unitRuns (coding 0x200 0 z) 0x200 && b.lee.err.isEmpty && b.currents.isEmpty &&
       b.seam == up.seam && decide (r.outDone + 32 + 16 + 64 ≤ r.job.outLimit) &&
       decide (¬(r.outDone + 32 + 16 ≤ { r.job with outLimit := 0 }.outLimit)) && epRoom b z.job.dst &&
       epKind z.job.dst == 0 && heldLast z == some true && z.waiting.isEmpty && h.scale.isNone &&
       epKind toLink.dst == 2 && !toLink.paired && epRoom up0 toLink.dst) = true := by decide +kernel

/-- A frame header of kind 0, as its two granules spell it (R161). -/
def frame0 : List (BitVec 8) := frameHeader 0 0 0

/-- CodecBlocksMove, Unfurl: a clean frame header; a valid header of a stored block of 32 bytes inside a frame; the end of
the input outside a frame and short inside one; the block under an accepted header. -/
theorem test_unfurl_moves :
    (let h := blockHeader 0 0 32 32 7
     let r := { CodRun.fresh (cjob true) with inFrame := true }
     let b := coding 0x100 (leNat h) r
     let f := CodRun.fresh (cjob true)
     let bf := putCodec (mem (upWith .plain) 0x1000 32 (leNat frame0)) 0x100 { getCodec up 0x100 with run := some f }
     let y : CodRun := { r with taken := 16, hdr := some ⟨0, false, 0, 32, 32, 7⟩ }
     let z : CodRun := { f with taken := 64 }
     (getCodec b 0x100).run == some r && r.job.unfurl && !r.job.ingress && r.ending.isNone && r.hdr.isNone && r.seg.isNone &&
       r.pairs.isEmpty && unitRuns b 0x100 && !codecBarred b 0x100 && !b.power.hold && !bf.power.hold && !runPaired b r && codedAvail b r == (64, true) &&
       (codedRead bf 0x100 f 32).1.map (·.1) == frame0 && !(codedRead bf 0x100 f 32).1.any (·.2) && !f.inFrame &&
       (frameKind frame0).isSome && (codedRead b 0x100 r 16).1.map (·.1) == h && !(codedRead b 0x100 r 16).1.any (·.2) &&
       blockFields h == some (0, false, 0, 32, 32, 7) && !limitPassed b r r.scaleFrame 32 && r.blkInFrame != 16 &&
       !z.inFrame && z.job.inBytes == z.taken && codedAvail b z == (0, true) && b.lee.err.isEmpty &&
       codedAvail b { r with taken := 56 } == (8, true) && epKind y.job.dst == 0 && outRoom b 0x100 y 32 &&
       decide (32 ≤ (codedAvail b y).1) && b.currents.isEmpty && b.seam == up.seam) = true := by decide +kernel

/-! ## Links (10_links) -/

/-- Link 0 changed. -/
def link (f : Link → Link) : Block := updLink up 0 f

/-- Link 0 in a state, with lanes 0 to 15 active and ready. -/
def lanesUp (state : Nat) (k : Link) : Link :=
  { assignLanes { k with lanes := k.lanes.map (fun x => { x with rdy := true }) } (List.range 16) with state := state }

/-- LinkFlitsAndReplay, receiving: a link that carries flits, with IDLE flits that acknowledge and refuse below and at the
limit, DATA flits at, past and before the expected SEQ, a gap on VC0 and a credit on VC3; an encrypted direction with 63
flits; runs of 2 and 3 uncorrectable codewords; a damaged group of 64 flits; an entry that times out below the limit and
at it, in UP and in HOLD. -/
theorem test_link_flits :
    (let h0 (nak : Nat) := nak * 2 ^ 41 + 2 * 2 ^ 39 + 5 * 2 ^ 23 + 2 * 2 ^ 21 + 3 * 2 ^ 13
     let h1 (vc seq : Nat) := 2 ^ 60 + vc * 2 ^ 58 + seq * 2 ^ 42
     let e (n : Nat) : ReplayEntry := ⟨2, 7, 0, [], n, false, false⟩
     let u := getLink (link (lanesUp 2)) 0
     let z (n : Nat) := { u with replay := [e n] }
     linkPresent up 0 && sendsFlits u && !u.encRx && fld (h0 0) 63 60 == 0 && !bit (h0 0) 41 && bit (h0 1) 41 &&
       fld (h0 0) 40 39 == 2 && fld (h0 0) 22 21 == 2 && fld (h1 2 0) 63 60 == 1 && fld (h1 2 0) 40 39 == 0 &&
       fld (h1 2 0) 59 58 == 2 && fld (h1 2 0) 57 42 == u.rx2.expect && fld (h1 2 65535) 57 42 != u.rx2.expect &&
       seqBefore 65535 u.rx2.expect && !seqBefore 1 u.rx2.expect && fld (h1 0 1) 57 42 != u.rx0.expect &&
       fld (h1 3 0) 57 42 == u.rx3.expect && decide (0 < { u with grant3 := 1 }.grant3) &&
       sendsFlits { u with encRx := true, rxFlits := List.replicate 63 0 } && u.uncorrRun + 1 < 4 &&
       { u with uncorrRun := 3 }.uncorrRun + 1 == 4 &&
       decide (64 ≤ { u with encRx := true, rxBad := true, rxFlits := List.replicate 64 0 }.rxFlits.length) &&
       (z 1).replay.find? (fun e => e.vc == 2 && !e.acked && !e.due) == some (e 1) && { z 1 with state := 3 }.state == 3 &&
       !replayLimit 2 7 (z 7) && replayLimit 2 7 (z 8)) = true := by decide +kernel

/-- LinkFlitsAndReplay, sending: with nothing to send, with a packet and a credit on VC2, with an entry to repeat, and
after 63 flits of a group. -/
theorem test_link_send :
    (let u := getLink (link (lanesUp 2)) 0
     let d := pushPkt { u with credit2 := 1, seq2 := 65535 } 2 ⟨.none, List.replicate 16 1⟩
     let e : ReplayEntry := { vc := 2, seq := 7, first := 0, payload := [], sends := 1, due := true, acked := false }
     let r := { u with replay := [e] }
     (List.range 4).all (fun v => decide (expectOf u v < 65536)) && !u.encTx && pickVc up 0 u == none &&
       pickVc up 0 d == some 2 && sendDue 2 d.replay == none && pickVc up 0 r == some 2 && (sendDue 2 r.replay).isSome &&
       r.replay.any (·.due) && (takeSeq d 2).1 == 65535 &&
       decide (63 ≤ (List.replicate 63 (0 : BitVec 4096)).length)) = true := by decide +kernel

/-- A READ_RSP of tag 4,095: generation, status, granules. -/
def rsp (gen st n : Nat) : RxPkt :=
  ⟨0x22 * 2 ^ 120 + n * 2 ^ 104 + gen * 2 ^ 100 + 4095 * 2 ^ 88 + st * 2 ^ 84, List.replicate (16 * n) 7, 0⟩

/-- A READ of two granules that has this tag. -/
def tagUse (o : Option Nat) : TagUse := ⟨0, some (o, 0, 2, 0)⟩

/-- A write sent. -/
def write9 (live : Bool) : WriteUse := ⟨9, 0, 128, 256, live⟩

/-- LinkAnswersAndPause, READ_RSP: with data, with status 1 and of another generation, for a stream and for the boot ROM,
and one whose tag is free; a tag whose lifetime runs and one that never ends. -/
theorem test_link_answers :
    (let k := { getLink up 0 with tags := [(4095, tagUse (some 0))], in2 := [rsp 0 0 2], tagTimeout := 1 }
     let boot := { up with start := { up.start with phase := .stage 2, bootReq := some (0, 2) } }
     k.in2 == [rsp 0 0 2] && pktType (rsp 0 0 2).header == 0x22 && fld (rsp 0 0 2).header 99 88 == 4095 &&
       Table.find k.tags 4095 == some (tagUse (some 0)) && fld (rsp 0 0 2).header 103 100 == 0 &&
       fld (rsp 0 0 2).header 87 84 == 0 && pktLen (rsp 0 0 2).header == 2 && fld (rsp 0 1 0).header 87 84 == 1 &&
       pktLen (rsp 0 1 0).header == 0 && fld (rsp 1 0 2).header 103 100 == 1 && boot.start.bootReq == some (0, 2) &&
       (tagUse none).req == some (none, 0, 2, 0) && (Table.find (getLink up 0).tags 4095).all (fun t => t.req.isNone) &&
       !up.power.hold && k.tagTimeout == 1 && { k with tagTimeout := 0 }.tagTimeout == 0) = true := by decide +kernel

/-- LinkAnswersAndPause, the rest: a WRITE_REFUSE that finds its live and its ended write, a KEY_SWITCH 64 and 63 groups
ahead and into a slot that holds no key, and PAUSE at its bounds. -/
theorem test_link_control :
    (let k := { getLink up 0 with writes := [write9 true] }
     let ks (g : Nat) : RxPkt := ⟨0x41 * 2 ^ 120 + g * 2 ^ 36, [], 0⟩
     let ke := { k with encRx := true, in3 := [ks 64], buf3 := [1] }
     k.writes.find? (fun w => w.wid == 9) == some (write9 true) && (write9 true).live && !(write9 false).live &&
       pktType (0x23 * 2 ^ 120 + 9 * 2 ^ 88) == 0x23 && fld (0x23 * 2 ^ 120 + 9 * 2 ^ 88) 103 88 == 9 &&
       pktType (ks 64).header == 0x41 && ke.in3 == [ks 64] && fld (ks 64).header 99 36 == (ks 64).group + 64 &&
       fld (ks 63).header 99 36 == 63 && ke.buf3 == [1] && ke.encRx &&
       (Table.find ([(0, (5, 0))] : Table (BitVec 256 × Word)) 0).isSome && (Table.find up.sec.slots 0).isNone &&
       linkPresent up 0 && decide (k.cqOn ≤ 65536 - k.catchQ.length) && decide (k.cqOff ≤ 65536 - k.catchQ.length) &&
       decide (65536 - (k.catchQ.length + 65536) < 1)) = true := by decide +kernel

/-- A training word of a lane: TS1 or TS2 with the MAP of lanes 0 to 15, with its CRC (R298). -/
def tsWord (ts lane map : Nat) : Nat :=
  let top := 0x5C3A96F00F69A3C5 * 2 ^ 160 + ts * 2 ^ 152 + lane * 2 ^ 147 + map * 2 ^ 130
  top * 2 ^ 32 + crc32c (leBytes 28 top)

/-- TrainingAndLanes, training: a DOWN link in the run phase; step 1 before and after PHY reset with its lanes ready; a
step in time and past its maximum; step 2 with enough lanes locked and with none; step 3 before and after the partner's
MAP, with and without common lanes; step 4 with 16 words on each active lane; step 5 with 5,140 intact flits; valid words
on an enabled and on another lane. -/
theorem test_training :
    (let at_ (n : Nat) (f : Lane → Lane) : Link :=
       let k := lanesUp 1 { getLink up 0 with step := n, phyRst := true }
       { k with lanes := k.lanes.map f }
     let r := at_ 1 id
     let locked := at_ 2 (fun x => { x with words := 16 })
     let mapped (m : Nat) := { at_ 3 (fun x => { x with words := 1 }) with partnerMap := m }
     let late := putLink { up with start := { up.start with portCycle := 2 ^ 60 } } 0 r
     let both (k : Link) := (ourMap up k).filter (fun i => bit k.partnerMap i)
     (getLink up 0).state == 0 && up.start.phase == .run && linkPresent up 0 && r.state == 1 && r.step == 1 &&
       !{ r with phyRst := false }.phyRst && r.phyRst && !stepLate up r && stepLate late r &&
       decide (max 1 (min 16 r.minLanes) ≤ (usableLanes up r).length) && (getLane r 16).rdy && wordOk 15 (tsWord 1 15 0) &&
       wordOk 15 (tsWord 2 15 0xFFFF) && decide (tsWord 2 15 0xFFFF < 2 ^ 256) && laneEn (putLink up 0 r) 0 15 &&
       !laneEn (putLink up 0 r) 0 16 && fld (tsWord 2 15 0xFFFF) 191 184 == 2 && fld (tsWord 2 15 0xFFFF) 178 162 == 0xFFFF &&
       cryptAgrees up r (tsWord 2 15 0xFFFF) && !cryptAgrees up { r with txEn := true } (tsWord 2 15 0xFFFF) &&
       (ourMap up locked).length == 16 && (ourMap up locked).all (fun i => decide (0 < (getLane locked i).words)) &&
       (ourMap up r).all (fun i => decide ((getLane r i).words = 0)) && (both (mapped 0xFFFF)).length == 16 &&
       both (mapped 0x10000) == [] && (List.range 17).all (fun i => (getLane locked i).state != 0 || 16 ≤ (getLane locked i).words) &&
       decide (5140 ≤ { r with step := 5, clean := 5140 }.clean)) = true := by
  decide +kernel

/-- TrainingAndLanes, retrain and retirement: an UP link with a ready active lane; a retrain of it that fails with enough
and with too few lanes; a lane that may retire, one whose retirement takes the link DOWN, and the partner's LANE_RETIRE;
an error window over the limit. -/
theorem test_retrain :
    (let u := lanesUp 2 { getLink (link id) 0 with auto := true }
     let few := { u with minLanes := 16 }
     let r := { u with state := 4, blame := 3, minLanes := 15 }
     let h := { u with state := 3, retiring := some 3, minLanes := 15 }
     let q := setLane u 3 { getLane u 3 with qualified := 1 }
     u.state == 2 && (getLane u 15).rdy && (getLane u 15).state == 0 && decide (worstLane u < 17) && r.state == 4 &&
       r.retiring.isNone && decide (max 1 (min 16 r.minLanes) ≤ (lanesWithout up r 3).length) &&
       decide ((lanesWithout up few 3).length < max 1 (min 16 few.minLanes)) && u.in3.isEmpty && u.auto &&
       h.retiring == some 3 && !h.tx3.contains (retirePkt 3) && decide (max 1 (min 16 h.minLanes) ≤ (lanesWithout up h 3).length) &&
       pktType (0x40 * 2 ^ 120 + 3 * 2 ^ 99) == 0x40 && fld (0x40 * 2 ^ 120 + 3 * 2 ^ 99) 103 99 == 3 &&
       (getLane q 3).qualified != 0 && (getLane q 3).state == 0 &&
       (getLane (setLane u 3 { getLane u 3 with window := u.serLimit + 1 }) 3).window == u.serLimit + 1) = true := by
  decide +kernel

/-- A word of the catch queue. -/
def cq (d : Nat) (head last : Bool) : CqWord := ⟨BitVec.ofNat 128 d, false, 0, head, last, false⟩

/-- The header of a SEG packet of one body granule for range 255, STORE 7, segment 9. -/
def segHead : Nat := 0x10 * 2 ^ 120 + 1 * 2 ^ 104 + 255 * 2 ^ 96 + 7 * 2 ^ 84 + 9 * 2 ^ 68

/-- An ingress job that runs on unit 0, with a segment. -/
def ingress (sg : Option Seg) : CodRun := { CodRun.fresh { cjob true with src := 4 * 2 ^ 60 } with seg := sg }

/-- A segment of range 255 in progress. -/
def seg (f : Seg → Seg) : Seg := f ⟨255, 1, 7, 9, 0, [], false, false, false, false, 0, 0⟩

/-- CatchQueueKeepsPackets: words to write into a queue that has room, a word to drop and a cut; an empty queue, a body
word that leads, a packet that cannot begin, a SEG of a FREE range, of a COMPLETE one and of an ARMED one at and below
COUNT; a body word and a header inside a segment, an END that was lost; segments to discard. -/
theorem test_catch_queue :
    (let k := { getLink up 0 with v0 := [.head 0 false], catchQ := [cq segHead true false, cq 5 false true] }
     let b := putLink (putCodec up 0 { getCodec up 0 with run := some (ingress none) }) 0 k
     let full := { LRange.fresh with state := 2, store := 7 }
     let armed (n : Nat) := { LRange.fresh with state := 1, store := 7, count := n }
     let plain := putRange (upWith .plain) 255 { armed 10 with dst := 2 ^ 48, segBytes := 16 }
     linkPresent b 0 && decide (k.catchQ.length < 65536) && !k.dropping && { k with dropping := true }.dropping &&
       { k with v0 := [.cut] }.v0 == [.cut] && (ingress none).job.ingress && (getLink up 0).catchQ.isEmpty &&
       (ingress none).ending.isNone && fld segHead 103 96 == 255 && fld segHead 95 84 == 7 && fld segHead 83 68 == 9 &&
       pktType segHead == 0x10 && mayBegin k && !mayBegin { k with catchQ := [cq segHead true false] } &&
       !(cq 5 false true).head && { k with cqIn := true }.cqIn && { k with cqIn := true, catchQ := [], cqEnd := true }.cqEnd &&
       (getRange b 255).state == 0 && (getRange (putRange b 255 full) 255).state == 2 && !(segBit plain (armed 10) 9).1 &&
       decide ((armed 9).count ≤ 9) && decide (9 < (armed 10).count) && !(seg id).whole && !(seg id).stopped &&
       !(seg id).ignored && (seg (fun s => { s with ignored := true })).ignored &&
       (seg (fun s => { s with stopped := true })).stopped && !(getRange plain 255).expand &&
       epRoom plain (getRange plain 255).dst && !plain.power.hold && !b.power.hold && decide ((seg id).out + 16 ≤ (getRange plain 255).segBytes) &&
       epKind (getRange plain 255).dst == 0 && plain.lee.err.isEmpty && plain.currents.isEmpty && plain.seam == up.seam &&
       !codecBarred b 0) = true := by
  decide +kernel

/-- CatchQueueKeepsPackets, a full queue: 65,536 words exist. -/
theorem test_full_catch_queue : ∃ q : List CqWord, q.length = 65536 := ⟨List.replicate 65536 (cq 0 false false), List.length_replicate⟩

/-- RangesLandSegments, landing: a whole segment of an ARMED range that counts as landed, the last of its range, and one
that is damaged; a PASS_END of a FREE range and of an ARMED one that asks for a refetch. -/
theorem test_landing :
    (let x := { LRange.fresh with state := 1, store := 7, count := 10, bitmap := 2 ^ 48, segBytes := 16, refetch := 1 }
     let b := putRange (upWith .plain) 255 x
     let run := ingress none
     let sg := seg (fun s => { s with whole := true, out := 16 })
     let bad := seg (fun s => { s with whole := true, damaged := true })
     !b.power.hold && segDone b run sg && segLanded x sg && segDone b run bad && !segLanded x bad && (getRange b 255).state == 1 &&
       !codecBarred (putCodec b 0 { getCodec b 0 with run := some run }) 0 && { x with landed := 9 }.landed + 1 == x.count &&
       pktType (segHead + 2 ^ 120) == 0x11 && fld (segHead + 2 ^ 120) 103 96 == 255 && (getRange up 255).state == 0 &&
       fld (segHead + 2 ^ 120) 95 84 == x.store && b.lee.err.isEmpty && x.refetch == 1) = true := by decide +kernel

/-! ## Fabric ports, seam, events and registers (01_anatomy, 11_fabric_ports, 12_faults) -/

/-- Port 63 in a state, with four classes of credits and framing, changed. -/
def port (state : Nat) (f : Port → Port) : Block :=
  putPort up 63 (f { Port.fresh with state := state, credits := [31, 32, 0, 5], frame := [0, 3, 0, 0], up := state != 2 })

/-- A head flit of class c of a contribution end, and the same with its OP bad. -/
def headFlit (op len : Nat) : RxFlit :=
  let h := BitVec.ofNat 128 (msgHeader op 1 0 len + 2 ^ 119)
  ⟨4, 2, true, [(h, false), (h, false)]⟩

/-- FabricReceivesMessages: a port that is not UP; a full class; a body flit that is due; a head flit with a usable copy
and one without; a baffle; messages to keep and to discard. -/
theorem test_fabric_receive :
    (let p := getPort (port 1 id) 63
     let f : RxFlit := ⟨1, 3, false, []⟩
     let q := getPort (port 1 (fun p => { p with held := List.replicate 32 f })) 63
     let good := flitGrans (fabFlit (headFlit 0 5).grans)
     let none_ := flitGrans 0
     let b := putRegion (port 1 id) 1 (low .reduce)
     p.state == 1 && (getPort (port 0 id) 63).state != 1 && q.held.countP (fun x => x.cls == 3) == 32 &&
       p.held.countP (fun x => x.cls == 3) == 0 && p.frame.getD 1 0 == 3 && p.frame.getD 0 0 == 0 &&
       ([good.headD (0, .uncorrectable), good.getD 1 (0, .uncorrectable)].find? copyOk).isSome &&
       !copyOk (none_.headD (0, .uncorrectable)) && !copyOk (none_.getD 1 (0, .uncorrectable)) &&
       messageBad b 63 2 (headFlit 6 0).grans && !messageBad b 63 2 (headFlit 0 0).grans &&
       mhLen ((headFlit 0 0).grans.headD (0, false)).1.toNat == 0 &&
       mhCend ((headFlit 0 0).grans.headD (0, false)).1.toNat) = true := by decide +kernel

/-- FabricReceivesMessages, what is read: a body flit of a message with 17 granules left and of one with 16 and CEND; a
baffle with 15 and 16 flits and a discarded stash flit; a GSIG that waits and one that does not, at a Gate that the job
holds and one it does not; boot words; stash head and body flits in and out of sequence. -/
theorem test_fabric_read :
    (let m (left : Nat) (c : Bool) : RxMsg := ⟨4, false, 0, 1, 64, left, c⟩
     let gs : Nat × Nat × RxOp := (4, 3, .gsig 5 1)
     let p := { getPort (port 1 id) 63 with cur := [(0, m 17 false)], ops := [gs] }
     let waits := { p with held := [⟨2, 0, false, []⟩] }
     let on := putGate { up with job := { up.job with running := true } } 5 { getGate up 5 with held := true }
     let job := { cjob false with src := 2 ^ 60 + 63 * 2 ^ 52 + 2 ^ 50 + 2 ^ 36, inBytes := 512 }
     let sm (off : Nat) : RxMsg := ⟨9, false, 0, 1, off, 32, false⟩
     let s (h : Bool) (off : Nat) := putCodec (port 1 (fun p =>
         { p with held := [⟨9, 1, h, []⟩], cur := if h then [] else [(1, sm off)] })) 0x200
       { getCodec up 0x200 with run := some (CodRun.fresh job) }
     let head (off : Nat) := msgHeader 0 1 off 32
     Table.find p.cur 0 == some (m 17 false) && decide (16 < (m 17 false).left) && decide ((m 16 true).left ≤ 16) &&
       (m 16 true).cend && (List.replicate 16 (⟨1, 0, true, []⟩ : RxFlit)).length == 16 && p.baffle.isEmpty &&
       stashDiscarded up 63 (getPort (port 1 id) 63) ⟨1, 1, true, []⟩ && !earlierPending up 63 p 4 &&
       !on.power.hold && !(s false 0).power.hold && !(s true 0).power.hold && !(port 1 id).power.hold &&
       earlierPending up 63 waits 4 && on.job.running && (getGate on 5).held && !(getGate on 5).barUse && !up.job.running &&
       (stashJob (s false 0) 0x200).isSome && (stashJob (s true 0) 0x200).isSome && !codecBarred (s true 0) 0x200 &&
       epPort job.src == 63 && Table.find (getPort (s false 0) 63).cur 1 == some (sm 0) &&
       Table.find (getPort (s true 0) 63).cur 1 == none && mhRegion (head 0) == 1 && mhOff (head 256) == 256 &&
       mhLen (head 0) == 32 && epPeerRegion job.src == 1 && epFabOff job.src == 0 && (sm 256).off != 0 &&
       decide (0 < job.inBytes)) = true := by
  decide +kernel

/-- FabricSendsUnderCredit: credits of 31 and 32; nothing ready; a message not begun and one begun; one that ended early. -/
theorem test_fabric_send :
    (let m (h c : Bool) : TxMsg := ⟨.drain 0, 0, 1, 0, 2, if c then [] else [(0, false), (1, false)], c, h, 0⟩
     let q (h c : Bool) := { getPort (port 1 id) 63 with tx := [(0, [m h c])] }
     let p := getPort (port 1 id) 63
     decide (p.credits.getD 0 0 < 32) && p.credits.getD 1 0 == 32 && pickClass up 63 p == none &&
       pickClass up 63 (q false false) == some (0, m false false, 0) && pickClass up 63 (q true false) == some (0, m true false, 0) &&
       (txQueue (q true true) 0).zipIdx.find? (fun m => m.1.headSent && m.1.closed && decide (m.1.supplied < m.1.len)) ==
         some (m true true, 0)) = true := by decide +kernel

/-- PortStatesFollow: port 63 DOWN with FAB_UP high, UP, and in RESET. -/
theorem test_port_states :
    ((getPort (port 0 id) 63).state == 0 && (getPort (port 0 id) 63).up && (getPort (port 1 id) 63).state == 1 &&
      (getPort (port 2 id) 63).state == 2) = true := by decide +kernel

/-- A trained seam with its channels 0 and 33 active and channel 5 spare. -/
def seam (spare : Bool) : Block :=
  let b := { up with seam := { up.seam with trained := true } }
  let b := putCh (putCh b 0 { SeamCh.fresh with state := 1 }) 33 { SeamCh.fresh with state := 1, logical := 1, qualified := true }
  if spare then putCh b 5 { SeamCh.fresh with state := 0 } else b

/-- SeamBeatsAndChannels: a width of 2 and of 0; eight words of both channels, and of one of them; a qualified channel
with and without a spare; a channel not active; Calm mode. -/
theorem test_seam :
    (let part (c : Nat) := List.replicate 8 (c, (0 : BitVec 144))
     let half := { seam true with seam := { (seam true).seam with inEast := part 0 } }
     let calm := { seam true with start := { (seam true).start with phase := .calm } }
     seamWidth (seam true) == 2 && seamWidth up == 0 && beatChans (seam true) == [0, 33] &&
       (beatChans (seam true)).all (partHere (part 0 ++ part 33)) && !(beatChans (seam true)).all (partHere (part 0)) &&
       !(arrivedOf half true).isEmpty && !partHere (arrivedOf half true) 33 && partHere (arrivedOf half true) 0 &&
       (getCh (seam true) 33).state == 1 && (getCh (seam true) 33).qualified && !(getCh (seam true) 0).qualified &&
       !inCalm (seam true) && inCalm calm && (getCh (seam true) 1).state != 1 &&
       chansIn (seam true) 0 == [5] && chansIn (seam false) 0 == []) = true := by decide +kernel

/-- EventLogKeepsOrder: a waiting report of the same code at COUNT 0xFFFE and 0xFFFF and of another; a source kind whose
first record is still free; an open record to coalesce into; a log with 4,096 unread records; a write of RD_SEQ to WR_SEQ
and past it. -/
theorem test_events :
    (let r (n : Nat) : Report := ⟨0x1000, 4, 0x113, n, 0⟩
     let l := { up.evt with waiting := [(0x1000, r 1)], wrSeq := 1, records := [(0, ⟨0, 0, r 1⟩)] }
     let full := { l with wrSeq := 4096, records := [] }
     Table.find l.waiting 0x1000 == some (r 1) && decide ((r 0xFFFE).count < 0xFFFF) && decide (0xFFFF ≤ (r 0xFFFF).count) &&
       (classOf 0x380 0 == 2 || classOf 0x380 0 == 1 || classOf 0x380 0 == 3 || classOf 0x380 0 == 4) &&
       nextWaiting l == some (0x1000, r 1) && coalesceInto l (r 1) == some (0, ⟨0, 0, r 1⟩) && coalesceInto full (r 1) == none &&
       coalesceInto l (r 0xFFFF) == some (0, ⟨0, 0, r 1⟩) &&
       unread full == 4096 && decide (((4096 : Word) - full.rdSeq).toNat ≤ (full.wrSeq - full.rdSeq).toNat) &&
       decide ((full.wrSeq - full.rdSeq).toNat < ((4097 : Word) - full.rdSeq).toNat) && up.evt.waiting.isEmpty) = true := by
  decide +kernel

/-- RegistersAndCounters: the last link's and the last Current's addresses are words; a W1C word of Eddy 127 and of the
last Gate; a locked register. -/
theorem test_registers :
    (curUsable up 7 && decide (0x2000000 + 0x10000 * 23 + 0xCC < 2 ^ 32) && decide (0x10B0008 + 0x100000 * 7 < 2 ^ 32) &&
      decide (0x1000004 + 0x100000 * 7 + 0x8000 * 15 < 2 ^ 32) && decide (0x1081000 + 0x100000 * 7 + 4 * 1023 < 2 ^ 32) &&
      !up.setNow.contains .jobEnd && ({ up with setNow := [.jobEnd] } : Block).setNow.contains .jobEnd &&
      !curUsable { up with power := { up.power with gated := [(7, 2)] } } 7 &&
      (let b := { up with start := { up.start with lock := true } }
       b.start.lock)) = true := by decide +kernel

/-! ## Commands of the host, jobs, start, power and security (13_clocks_reset_start to 16_windsock) -/

/-- A command entry of an OPCODE with arguments A0, A1, … (R431). -/
def cmd (op : Nat) (args : List Nat) : BitVec 512 :=
  BitVec.ofNat 512 (op + (args.zipIdx.map (fun p => p.1 * 2 ^ (64 * p.2 + 64))).sum)

/-- Windsock has taken a command from the mailbox and not started it. -/
def taken (b : Block) (e : BitVec 512) : Block := { b with host := { b.host with running := [(64, ⟨e, false, 0, false⟩)] } }

/-- The command that taken gives meets commandIn. -/
theorem takenIn (b : Block) (op : Nat) (e : BitVec 512)
    (h : (cmdOpcode e == op && inOrder (taken b e) 64 ⟨e, false, 0, false⟩ && !(taken b e).power.hold && argsClean e) = true) :
    commandIn (taken b e) 64 op e := by
  simp only [Bool.and_eq_true, beq_iff_eq, Bool.not_eq_true'] at h
  exact ⟨⟨e, false, 0, false⟩, rfl, rfl, h.1.1.1, rfl, h.1.1.2, fun _ => h.1.2, h.2⟩

/-- Every command of R432 that a statement names, with arguments that leave no reserved bit set. -/
theorem test_commands_in :
    [(0x01, [2 ^ 48]), (0x02, [0x10, 64, 1]), (0x03, [1]), (0x04, [1, 0, 64]), (0x05, [1, 1]), (0x06, [0, 2 ^ 48, 0]),
      (0x07, [2047, 2 ^ 48, 0]), (0x08, [2047]), (0x09, [0]), (0x0A, [2 ^ 16 + 5]), (0x0B, [0x1000, 2 ^ 48]),
      (0x0C, [0x3707, 2 ^ 48]), (0x10, [2 ^ 48, 2 ^ 48 + 0x8000, 0x1000]), (0x11, [1]), (0x12, [255, 2 ^ 48]), (0x13, [255]),
      (0x14, [0xFF0F]), (0x15, [0x100]), (0x16, [780]), (0x17, [0x107]), (0x18, [7]), (0x19, [1, 2 ^ 48]), (0x1A, [0, 2 ^ 48]),
      (0x1B, []), (0x1C, [64]), (0x1D, [3])].all (fun p =>
        let e := cmd p.1 p.2
        cmdOpcode e == p.1 && inOrder (taken up e) 64 ⟨e, false, 0, false⟩ && argsClean e) = true := by decide +kernel

/-- A little-endian field at a byte offset of a number that spells bytes. -/
def field (off v : Nat) : Nat := v * 2 ^ (8 * off)

/-- A job image: one Task on Eddy 3 with a segment of 16 zero bytes at 0x1000 of Region 1 and argument 7, one Gate at 9
(R435). -/
def jobImage : Nat :=
  field 0 0x424F4A46 + field 4 2 + field 8 2 + field 0xA 1 + field 0xC 1 + field 0x1C 64 + field 0x20 160 + field 0x24 168 +
    field 0x28 256 + field 64 3 + field (64 + 4) 1 + field (64 + 8) 0x1000 + field (64 + 0xC) 16 +
    field (64 + 0x10) (crc32c (List.replicate 16 0)) + field (64 + 0x20) 7 + field 160 5 + field 164 9

/-- job_start of that image, taken. -/
def jobTaken : Block := taken (mem (upWith .plain) 0 512 jobImage) (cmd 0x10 [2 ^ 48, 2 ^ 48 + 0x8000, 0x1000])

/-- The image as the model reads it. -/
def jobIm : Image := ⟨2, 0, 2, 0, 0, 0, [], [⟨3, 0, 1, 0x1000, 16, crc32c (List.replicate 16 0), 7 :: List.replicate 7 0⟩],
  [(5, 9)], [], []⟩

/-- StartedTaskHoldsItsArguments, JobsStartStopAndEnd: the job_start is taken, both endpoints lie in their Region, the
image is valid and not refused; with a job running it is refused. -/
theorem test_job_start :
    commandIn jobTaken 64 0x10 (cmd 0x10 [2 ^ 48, 2 ^ 48 + 0x8000, 0x1000]) ∧
      leeEp jobTaken false (2 ^ 48) 16 = some (low .plain, 0) ∧
      leeEp jobTaken true (2 ^ 48 + 0x8000) 0x1000 = some (low .plain, 0x8000) ∧
      readImage (scanImage jobTaken (low .plain) 0) (low .plain) 0 = some jobIm ∧
      jobRefusal (scanImage jobTaken (low .plain) 0) (some jobIm) = none ∧
      freeing (scanImage jobTaken (low .plain) 0) = false ∧
      (jobIm.gates.map (·.1)).Nodup ∧ jobRefusal { jobTaken with job := { jobTaken.job with running := true } } (some jobIm) = some 0x833 :=
  ⟨takenIn _ _ _ (by decide +kernel), by decide +kernel⟩

/-- JobsStartStopAndEnd, the rest: a running job to abort by number, one that stops, one at rest, Tasks that wait below
and at the watchdog time, Vanes to turn on and off. -/
theorem test_jobs :
    (let j := { up with job := { up.job with running := true, number := 7, eddies := [0], watchdog := 1, waited := [(0, (0, 0))] } }
     let w := putEddy j 0 { ed with run := .running, wait := .mov }
     let s := { j with job := { j.job with stop := some 0x810, stopped := true } }
     let v := { up with power := { up.power with vaneQ := [(0, [3])], vaneOn := [17] } }
     fld (cmdArg (cmd 0x11 [7]) 0) 31 0 == j.job.number.toNat && j.job.stop.isNone && !j.power.hold && atRest s &&
       (w.job.eddies.foldl (watchEddy w) w.job.waited).all (fun p => decide (1 ≤ p.2.1)) &&
       (j.job.eddies.foldl (watchEddy j) j.job.waited).isEmpty && Table.get [] v.power.vaneQ 0 == [3] &&
       Table.get [] v.power.vaneQ 1 == [] && v.power.vaneOn.find? (fun e => e / 16 == 1) == some 17) = true := by decide +kernel

/-- RangesLandSegments: a range_arm whose descriptor breaks the table, and one that keeps it (COUNT 10 with its bitmap
at 0x2000 of Region 1, no EXPAND); range_free. -/
theorem test_range_commands :
    commandIn (taken (upWith .plain) (cmd 0x12 [255, 2 ^ 48])) 64 0x12 (cmd 0x12 [255, 2 ^ 48]) ∧
      leeEp (taken (upWith .plain) (cmd 0x12 [255, 2 ^ 48])) false (2 ^ 48) 64 = some (low .plain, 0) ∧
      rangeOk up 0 (rangeOf 0) = false ∧ (getRange up 255).state = 0 ∧
      (let d := field 0 (2 ^ 48 + 0x4000) + field 16 (2 ^ 48 + 0x2000) + field 24 16 + field 32 10
       rangeOk (upWith .plain) d (rangeOf d) = true) ∧
      commandIn (taken up (cmd 0x13 [255])) 64 0x13 (cmd 0x13 [255]) :=
  ⟨takenIn _ _ _ (by decide +kernel), by decide +kernel, by decide +kernel, by decide +kernel, by decide +kernel, takenIn _ _ _ (by decide +kernel)⟩

/-- ColdResetLeavesResetValues, ResetsAndStartStages: the pins after reset; each stage; a reserved boot source; PLLs all
locked and not; a PLL that is needed. -/
theorem test_start :
    (let at_ (p : Phase) := { up with start := { up.start with phase := p } }
     let locked := { at_ (.stage 0) with start := { (at_ (.stage 0)).start with pll := 0x7FF } }
     let warm := { up with start := { up.start with warmLow := true } }
     State.reset.blk.start.coldLow && !State.reset.blk.start.warmLow && fld (0x1FE0000#32).toNat 24 17 == 255 &&
       warm.start.warmLow && !warm.start.coldLow && !warm.start.scanned && (at_ (.stage 0)).start.phase == .stage 0 &&
       locked.start.straps.boot != 3 && pllNeeded locked - (pllNeeded locked &&& locked.start.pll.toNat) == 0 &&
       pllNeeded (at_ (.stage 0)) - (pllNeeded (at_ (.stage 0)) &&& (at_ (.stage 0)).start.pll.toNat) != 0 &&
       bit (pllNeeded up) 10 && (at_ (.stage 2)).start.straps.boot == 0 && (at_ (.stage 2)).start.imageLen.isNone &&
       (at_ (.stage 7)).start.phase == .stage 7) = true := by decide +kernel

/-- PowerIntervalSteps: outside reset and Hold, with a governing sensor at 100 °C and with all below 97 °C; sensors that
are fresh, in range at both ends and past them. -/
theorem test_power :
    (let hot := { up with power := { up.power with temps := [(0, (true, 656))] } }
     let cool := { up with power := { up.power with temps := [(0, (true, 643))] } }
     up.start.phase != .reset && !up.power.hold && curUsable up 0 && (hotSensor hot 0).isSome && decide (1200 < (getGale hot 0).thermCeil) &&
       (hotSensor cool 0).isNone && reading cool 0 == some 643 && decide (643 < 4 * (97 + 64)) && (getGale up 0).limit == 0 &&
       Table.find up.power.temps 31 == none && Table.find [(31, (false, 0))] 31 == some (false, 0) && !up.power.droopPin) = true := by
  decide +kernel

/-- HoldGatingAndBudget: sensors at 695 and 696; Hold with 655 and 656 (so its rows stand still); Currents to gate and to ungate. -/
theorem test_hold :
    (let t (v : Nat) := { up with power := { up.power with temps := [(3, (true, v))] } }
     let h (v : Nat) := { t v with power := { (t v).power with hold := true } }
     let g := { up with power := { up.power with gated := [(7, 2)] } }
     reading (t 695) 3 == some 695 && reading (t 696) 3 == some 696 && !(t 696).power.hold && (h 655).power.hold &&
       reading (h 656) 3 == some 656 && !up.job.running && curEnabled up 7 && curUsable up 7 && !persistentIn up 7 &&
       Table.get 0 g.power.gated 7 == 2 && !inCalm up) = true := by decide +kernel

/-- LifecycleAndRootFuses, RollbackAdvanceReachesTarget: states in force that allow and refuse each transition; 96 bytes
in a Region; an SVN of 64. -/
theorem test_lifecycle :
    (let b (n : Nat) := { upWith .plain with sec := { up.sec with state := n } }
     lifecycleOf Fuses.reset == 0 && (b 1).sec.state == 1 && (bytes96 (b 1) (2 ^ 48)).isSome && bytes96 (b 1) 0 == none &&
       !(b 1).job.running && (b 2).sec.state == 2 && !(b 2).sec.ownerGrant && rollbackCount Fuses.reset == 0 &&
       rollbackCount { Fuses.reset with rollback := 3 } == 2 && imgField (List.replicate 8 (1 : BitVec 8)) 6 1 == 1 &&
       (Fuses.reset.revoked ||| BitVec.ofNat 4 (2 ^ 3)) != 0xF) = true := by decide +kernel

/-- KeysContextsAndDebug: a key slot in use; W1 loaded; a commit word for slot 15 and for W1; a context held; requests for
each clause of GO; requests that verify and fail, in BLANK and in PROD. -/
theorem test_security :
    (let used := link (fun k => { lanesUp 2 k with encTx := true, txSlot := 15 })
     let b (n : Nat) (f : Sec → Sec) := { up with sec := f { up.sec with state := n } }
     slotInUse used 15 && !slotInUse used 14 && (b 1 (fun s => { s with w1 := some 5 })).sec.w1 == some 5 &&
       (0x8000000F#32).getLsbD 31 && fld (0x80000010#32).toNat 4 0 == 16 && (getCtx (putCtx up 3 { getCtx up 3 with held := true }) 3).held &&
       levelAllowed (b 0 id) 1 0 && !levelAllowed (b 4 id) 2 0 && !dbgBusy (b 0 id) && dbgBusy (b 0 (fun s => { s with grant := true })) &&
       !(b 0 id).sec.nonceFresh && (b 2 (fun s => { s with req := some (2, 0, 0) })).sec.req == some (2, 0, 0) &&
       !unitsBusy up && !regionsBusy up && unitsBusy (copying true) && up.sec.req.isNone && up.start.phase != .reset &&
       (putLink up 0 { getLink up 0 with encTx := true }).links.length == 1) = true := by decide +kernel

/-- TestAccessFollowsLevels: instructions 0 to 5 and 6; a wrapper that runs WS_INTEST or WS_1687; a granule, an Eddy and a
register that the DAP may access and one of each that it may not; a counter; the debug registers at both ends. -/
theorem test_access :
    (let b := { up with start := { up.start with wrapper := 5 }, sec := { up.sec with level := 2 } }
     b.start.wrapper == 5 && b.start.phase != .reset && b.sec.level == 2 && dapLee b 5 && !dapLee b (2 ^ 44) &&
       curUsable b (16383 / 16384 / 16) && decide (128 ≤ 128 * 16384 / 16384) && (winOf 0x1000).isSome &&
       winOf 0x400000 == none && isCounter 0x1008 && !isCounter 0x1000 && (winOf 0x300060).isSome && (winOf 0x3001DC).isSome &&
       Table.find b.lee.err 5 == none && up.start.wrapper != 4 && (6#4).toNat == 6 && !b.job.running) = true := by decide +kernel

/-- RegionGateAndCapsCommands: sizes at the bounds, a Region that can be named, busy and idle, a Gate to signal. -/
theorem test_region_commands :
    (let b := upWith .plain
     let g := putGate up 5 { getGate up 5 with held := true }
     namedRegion b 1 == some (low .plain) && namedRegion b 2 == none && !regionBusy b 1 (low .plain) &&
       regionBusy (copying true) 1 (low .plain) && curUsable b 0 && decide (16 ≤ leeBytesOf b 0) && (getGate g 5).held &&
       namedRegion (upWith .reduce) 1 == some (low .reduce) && leeEp b true (2 ^ 48) 256 == some (low .plain, 0) &&
       leeEp b true (2 ^ 48 + 0xFF10) 256 == none && b.lee.err.isEmpty && fitsAt (backedRuns b 0) (takenRuns b 0) 16 0x10000 && !fitsAt (backedRuns b 0) (takenRuns b 0) 16 0xFFF0) = true := by
  decide +kernel

/-- RegionGateAndCapsCommands: a Current whose Lee a Region fills has no base left. -/
theorem test_no_base :
    let b := putRegion up 1 { low .plain with size := 0xC000000 }
    ∀ base, ¬(fitsAt (backedRuns b 0) (takenRuns b 0) 16 base = true) := by
  intro b base h
  have hr : backedRuns b 0 = [(0, 0xC000000)] := by decide +kernel
  have ht : takenRuns b 0 = [(0, 0xC000000)] := by decide +kernel
  rw [hr, ht] at h
  simp only [fitsAt, List.any_cons, List.any_nil, List.all_cons, List.all_nil, Bool.or_false, Bool.and_true,
    Bool.and_eq_true, Bool.or_eq_true, decide_eq_true_eq] at h
  omega

/-- RegionGateAndCapsCommands: a table in which every Region ID is taken. -/
theorem test_no_id (r : Region) : ∀ n k i : Nat, k ≤ i → i < k + n →
    (Table.find ((List.range' k n).map (fun j => (j, r))) i).isSome = true := by
  intro n
  induction n with
  | zero => intro k i h1 h2; omega
  | succ n ih =>
    intro k i h1 h2
    simp only [List.range'_succ, List.map_cons, Table.find]
    split
    · rfl
    · exact ih (k + 1) i (by omega) (by omega)

/-- StreamAndCodecCommands: a descriptor whose arm fails and one whose arm is placed; streams armed, stalled and idle. -/
theorem test_stream_commands :
    (let b := copying false
     leeEp b false (2 ^ 48) 64 == some (low .plain, 0) && leeEp b false (2 ^ 48 + 0xFFF0) 64 == none && b.lee.err.isEmpty &&
       (low .plain).cur == 0 && !(markedNat (leeBytesAt b 0 64).1).2 && b.job.stop.isNone && (getStream b 0).held && !(getStream b 1).held &&
       (getStream (copying true) 0).armed.length == 1 && (armCheck b 0 false copyDesc 0).isOk &&
       (armCheck b 0 true copyDesc 0).isOk && !(armCheck b 0 false (copyDesc + 2 ^ 480) 0).isOk &&
       !b.job.running && ({ low .plain with cur := 1 } : Region).cur != 0 && !{ low .plain with held := false }.held) = true := by decide +kernel

/-- Two persistent Regions for ring 63, enabled with one command and one completion to write. -/
def ringed : Block :=
  let p := { low .plain with persistent := true }
  let b := putRegion (putRegion up 1 p) 2 { p with base := 0x10000 }
  let b := putRing b 63 { getRing b 63 with en := true, log2 := 4, cmdRegion := 1, cplRegion := 2, cmdTail := 1 }
  { b with host := { b.host with cpls := [⟨63, 0⟩, ⟨64, 0⟩, ⟨65, 0⟩] } }

/-- RingsMailboxAndPort: a ring that can be enabled; one whose turn it is; completions for a ring, the mailbox and MCTP;
accesses inside and outside the windows; a Region that LEE_DATA reaches. -/
theorem test_rings :
    (let b := ringed
     let x := getRing b 63
     let m := { up with host := { up.host with mboxGo := some (cmd 1 []), mctpCmds := [cmd 1 []] } }
     ringOk (putRing b 63 { x with en := false }) 63 x && x.en && !x.stopped && sourceReady b 63 && nextSource b == some 63 &&
       nextSource m == some 64 && nextSource { m with host := { m.host with mboxGo := none } } == some 65 &&
       (namedRegion b 1).isSome && (namedRegion b 2).any (fun g => regionAddr g % 16 == 0) && x.unread == 0 &&
       decide (16 < (17 + 65536 - x.cmdHead) % 65536) && (winOf 0x1000).isSome && winOf 0x400000 == none &&
       fld (cplEntry 0 0 3 1 0 0).toNat 55 48 == 3) = true := by decide +kernel

/-- MctpAndPldmAnswer: outside reset, with a dynamic address, in and out of the ROM monitor. -/
theorem test_mctp :
    (let b := { up with host := { up.host with dynAddr := some 8 } }
     b.start.phase != .reset && b.host.dynAddr.isSome && !b.start.monitor && (128#8).toNat == 128 && (winOf 0x1000).isSome &&
       decide (256 < (List.replicate 257 (0 : BitVec 8)).length) &&
       { b with start := { b.start with monitor := true } }.start.monitor) = true := by decide +kernel

/-! ## Worked examples of the manual and published vectors -/

/-- The power state of the budget cut of 14_power: every Current at a step, with the interval's estimates in tenths of an
ampere at 0.75 V. -/
def drawing (step ceil : Nat) (cur : Nat × Nat) (all : Nat) : Block :=
  { up with power := { up.power with
      budgetCeil := ceil
      gale := (List.range 8).map (fun n => (n, { getGale up 0 with cur := step, target := step }))
      estSum := ((List.range 13).map (fun d => (d, if d < 8 then cur.1 else if d = 12 then all else 0)))
      estCount := (List.range 13).map (fun d => (d, cur.2)) } }

/-- R388, the example of 14_power: 780 W lead to 2,200 MHz, 584 W to 2,000 MHz, and 556 W hold 2,000 MHz. -/
theorem test_budget_cut :
    ((powerInterval 1120 (drawing 3600 3600 (1000, 1) 10400)).power.budgetCeil == 2200 &&
      (powerInterval 1120 (drawing 2200 2200 (2020, 3) 23360)).power.budgetCeil == 2000 &&
      (powerInterval 1120 (drawing 2000 2000 (1880, 3) 22240)).power.budgetCeil == 2000) = true := by decide +kernel

/-- The fetch of the example of 07_streams: 704 rows of 7,680 bytes into a ring. -/
def fetch : Xfer := { xferOf 0 (BitVec.ofNat 64 (2 ^ 33 + 2048)) with
  src := 5 * 2 ^ 60 + 0x2A * 2 ^ 45 + 0x1000003C00, dst := 2 ^ 48, c0 := 480, c1 := 704, c2 := 1, c3 := 1, c4 := 1, t1 := 61440 }

/-- R199, R200, R207, R221, the example of 07_streams: 5,406,720 bytes; a ring of 491,520 bytes takes it and one of
500,000 does not; the cursor at 523,264 bytes is (64, 68, 0, 0, 0); TTE is 4,320 with 138,240 bytes published. -/
theorem test_fetch_example :
    (let ring (n w : Nat) := putRegion up 1 { low .ring with size := n, ringW := w }
     fetch.total == 5406720 && fetch.spanHigh + (fetch.eb : Int) == 43200000 &&
       !passesBound (ring 491520 0) fetch fetch.side fetch.dst && passesBound (ring 500000 0) fetch fetch.side fetch.dst &&
       fetch.cursorAt 523264 == [64, 68, 0, 0, 0] && firstTte (ring 491520 138240) fetch == 4320) = true := by decide +kernel

/-- A decimal fraction. -/
def frac (n d : Nat) : Value := .fin false n d

/-- R141, R142, R144, the example of 05_numerics: the INT4 scale of 3.0 / 7 and its codes; the MXFP4 scale of 0.04 and its
codes; the FP4 codes under the scale of 3.0. -/
theorem test_quantiser_example :
    (let i4 := qDescOf ((leBytes 48 (quantDesc 0 0 0 0xA 1)).map id)
     let s := roundUpScale 3 3 7
     let mx := { i4 with ofmt := 2, mx := true, gran := 3 }
     let z (n d : Nat) := convertElem mx .near (readScale 0 false 0x78 0) (frac n d)
     let y (n d : Nat) := convertElem mx .near (readScale 0 false 126 0) (frac n d)
     s == 0x3EDB6DB7 && (convertElem i4 .near (readScale 3 false s 0) (frac 1 100)).code == 0 &&
       (convertElem i4 .near (readScale 3 false s 0) (frac 22 10)).code == 5 &&
       (deriveScale mx { Rng.empty with amax := frac 1 25, max := frac 1 25, min := frac 1 100 }).code == 0x78 &&
       Value.eqv (fpDecode 2 (z 1 100).code) (frac 3 2) && Value.eqv (fpDecode 2 (z 1 25).code) (frac 6 1) &&
       Value.eqv (fpDecode 2 (y 3 1).code) (frac 6 1) && Value.eqv (fpDecode 2 (y 22 10).code) (frac 4 1)) = true := by
  decide +kernel

/-- R440, R427, R429, the example of 16_windsock: after 3 at DB_0 three commands wait; MGT_IRQ[0] is high with a completion
unread and low once CPL_HEAD reads CPL_TAIL. -/
theorem test_first_ring :
    (let p (n : Nat) := { low .plain with persistent := true, size := n }
     let b := putRegion (putRegion up 1 (p 4096)) 2 { p 2048 with base := 0x10000 }
     let b := { b with host := { b.host with irqMask := 1 } }
     let b := ringCfg 0 (BitVec.ofNat 32 (2 ^ 31 + 6 * 2 ^ 24 + 1 * 2 ^ 12 + 2)) b
     let d := doorbell 0 3 b
     let u := putRing d 0 { getRing d 0 with cmdHead := 1, cplTail := 1 }
     (getRing b 0).en && (getRing d 0).cmdTail == 3 && mgtIrq d == 0 && mgtIrq u == 1 && mgtIrq (cplHeadWrite 0 1 u) == 0) =
      true := by decide +kernel

/-- R378, R382, the example of 13_clocks_reset_start: the third bad image leads to Calm mode with the cause word
0x0302_0806. -/
theorem test_bad_images :
    (let s := { up.start with phase := .stage 2, attempts := 2 }
     let b := failStage { up with start := s } 2 0x806 0x701
     b.start.phase == .calm && b.start.attempts == 3 && b.start.cause == 0x806 && b.start.causeStage == 2) = true := by
  decide +kernel

/-- R345, the example of 12_faults: channel 9 retires, spare 32 takes its logical index, the width stays 32 and one spare
is left. -/
theorem test_stitch_defect :
    (let b := seamInit { up with start := { up.start with straps := { up.start.straps with spares := true } },
                                 seam := { up.seam with trained := true } }
     let b := putCh b 9 { getCh b 9 with qualified := true }
     let t := seamRetired 9 b
     (getCh t 9).state == 2 && (getCh t 32).state == 1 && (getCh t 32).logical == 9 && seamWidth t == 32 &&
       chansIn t 0 == [33] && (Table.find t.evt.waiting 0x8009).any (fun r => r.code == 0x482 && r.cls == 4) &&
       (Table.find t.evt.waiting 0x8109).any (fun r => r.code == 0x482 && r.cls == 4)) = true := by decide +kernel

/-- CRC-32C of "123456789" is 0xE306_9283 (RFC 3720, for R161). -/
theorem test_crc : crc32c [49, 50, 51, 52, 53, 54, 55, 56, 57] = 0xE3069283 := by decide +kernel

/-- SHA-384 of "abc" (FIPS 180-4, for R404). -/
theorem test_sha : sha384 [97, 98, 99] =
    0xCB00753F45A35E8BB5A03D699AC65007272C32AB0EDED1631A8B605A43FF5BED8086072BA1E7CC2358BAECA134C825A7 := by decide +kernel

/-- R81, R84: one step of ADD wraps, with the destination a source too; one step of STS then holds the bytes. -/
theorem test_add_step :
    (let x := writeReg ed 3 (BitVec.ofNat 64 (2 ^ 64 - 1)) false
     let b := atWord up x (word 1 0 [(110, 3), (104, 3), (98, 3)])
     match exec (.add 0) (st b) with
     | .next t => (readReg (getEddy t.blk 0) 3).toNat == 2 ^ 64 - 2 && (getEddy t.blk 0).pc == 1
     | _ => false) = true := by decide +kernel

/-- R83: one step of STS writes 8 bytes, the lowest address least significant. -/
theorem test_sts_step :
    (let x := writeReg ed 5 0x1122334455667788 false
     let b := atWord (upWith .plain) x (rowWord 1 15 [(98, 5)] + 8)
     match exec (.sts 0) (st b) with
     | .next t => (List.range 10).map (fun i => (byteAt t.blk (7 + i)).toNat) ==
         [0, 0x88, 0x77, 0x66, 0x55, 0x44, 0x33, 0x22, 0x11, 0]
     | _ => false) = true := by decide +kernel

end Sys2Proof.Tests
end

/-! PROOF. What a seam channel reads as after a write, what the reading of a beat keeps, and which granules and which
later words a beat gives (R19, R22, R338, R344). -/

namespace Sys2Proof.Machine

/-! ## Channels -/

theorem getCh_putCh (b : Block) (c j : Nat) (x : SeamCh) : getCh (putCh b c x) j = if j = c then x else getCh b j :=
  Table.get_put ..

@[simp] theorem getCh_putCh_self (b : Block) (c : Nat) (x : SeamCh) : getCh (putCh b c x) c = x := Table.get_put_self ..

theorem getCh_seamWindow (b : Block) (c : Nat) :
    getCh (seamWindow b) c = { getCh b c with winWest := 0, winEast := 0, winUnc := 0, noted := false } :=
  Table.get_mapAll _ _ _ rfl c

theorem getCh_seamClr (b : Block) (c : Nat) : getCh (seamClr b) c = { getCh b c with corr := 0 } :=
  Table.get_mapAll _ _ _ rfl c

theorem mem_chansIn (b : Block) (st c : Nat) : c ∈ chansIn b st ↔ c < 34 ∧ (getCh b c).state = st := by
  simp [chansIn]

/-! ## Arrived words and released beats -/

/-- The beat released last in a direction. -/
def beatOf (b : Block) (east : Bool) : List (Granule × Bool) := if east then b.seam.outEast else b.seam.outWest

/-- What a statement about beats sees of the block: Lee, and both directions' words and beats. -/
def beatView (b : Block) : Lee × (Bool → List (Nat × BitVec 144)) × (Bool → List (Granule × Bool)) :=
  (b.lee, arrivedOf b, beatOf b)

theorem beatView_eq_iff (b b' : Block) :
    beatView b' = beatView b ↔ b'.lee = b.lee ∧ arrivedOf b' = arrivedOf b ∧ beatOf b' = beatOf b := by
  simp [beatView]

@[simp] theorem arrivedOf_setArrived (b : Block) (east : Bool) (l : List (Nat × BitVec 144)) :
    arrivedOf (setArrived b east l) east = l := by cases east <;> rfl

@[simp] theorem arrivedOf_setArrived_other (b : Block) (east : Bool) (l : List (Nat × BitVec 144)) :
    arrivedOf (setArrived b east l) (!east) = arrivedOf b (!east) := by cases east <;> rfl

@[simp] theorem beatOf_setArrived (b : Block) (east e : Bool) (l : List (Nat × BitVec 144)) :
    beatOf (setArrived b east l) e = beatOf b e := by cases east <;> cases e <;> rfl

@[simp] theorem beatOf_setBeat (b : Block) (east : Bool) (l : List (Granule × Bool)) :
    beatOf (setBeat b east l) east = l := by cases east <;> rfl

@[simp] theorem beatOf_setBeat_other (b : Block) (east : Bool) (l : List (Granule × Bool)) :
    beatOf (setBeat b east l) (!east) = beatOf b (!east) := by cases east <;> rfl

@[simp] theorem arrivedOf_setBeat (b : Block) (east e : Bool) (l : List (Granule × Bool)) :
    arrivedOf (setBeat b east l) e = arrivedOf b e := by cases east <;> cases e <;> rfl

@[simp] theorem lee_setArrived (b : Block) (east : Bool) (l : List (Nat × BitVec 144)) :
    (setArrived b east l).lee = b.lee := rfl

@[simp] theorem lee_setBeat (b : Block) (east : Bool) (l : List (Granule × Bool)) :
    (setBeat b east l).lee = b.lee := rfl

/-- The order of channels rests on the channels alone. -/
theorem chanInsert_congr {b b' : Block} (h : getCh b' = getCh b) (c : Nat) (l : List Nat) :
    chanInsert b' c l = chanInsert b c l := by
  induction l with
  | nil => rfl
  | cons x r ih => rw [chanInsert, h, ih, chanInsert]

theorem beatChans_congr {b b' : Block} (h : getCh b' = getCh b) : beatChans b' = beatChans b := by
  have hins : chanInsert b' = chanInsert b := funext fun c => funext fun l => chanInsert_congr h c l
  rw [beatChans, chansIn, h, hins, beatChans, chansIn]

@[simp] theorem beatChans_setArrived (b : Block) (east : Bool) (l : List (Nat × BitVec 144)) :
    beatChans (setArrived b east l) = beatChans b := beatChans_congr (by cases east <;> rfl)

/-! ## What the reading of a beat keeps -/

@[simp] theorem beatView_putCh (b : Block) (c : Nat) (x : SeamCh) : beatView (putCh b c x) = beatView b := rfl

@[simp] theorem beatView_report (b : Block) (src code : Nat) (d : BitVec 128) :
    beatView (report b src code d) = beatView b := rfl

@[simp] theorem beatView_qualifyCh (b : Block) (east : Bool) (c : Nat) :
    beatView (qualifyCh b east c) = beatView b := by
  simp only [qualifyCh]
  split
  · rfl
  · split
    · rfl
    · split <;> rfl

@[simp] theorem beatView_seamGran (b : Block) (east : Bool) (c : Nat) (w : Stored) :
    beatView (seamGran b east c w).2 = beatView b := by
  unfold seamGran
  split <;> rfl

@[simp] theorem beatView_seamPart (east : Bool) (c : Nat) (l : List Stored) (b : Block) :
    beatView (seamPart east c l b).2 = beatView b := by
  induction l generalizing b with
  | nil => rfl
  | cons w r ih => simp [seamPart, ih]

@[simp] theorem beatView_poisonGrans (n : Nat) (b : Block) : beatView (poisonGrans n b).2 = beatView b := by
  induction n generalizing b with
  | zero => rfl
  | succ n ih => exact ih _

@[simp] theorem beatView_partOf (east : Bool) (words : List (Nat × BitVec 144)) (c : Nat) (b : Block) :
    beatView (partOf east words c b).2 = beatView b := by
  unfold partOf
  split <;> simp

@[simp] theorem beatView_seamParts (east : Bool) (words : List (Nat × BitVec 144)) (chans : List Nat) (b : Block) :
    beatView (seamParts east words chans b).2 = beatView b := by
  induction chans generalizing b with
  | nil => rfl
  | cons c r ih =>
    rw [seamParts, ih]
    split <;> simp

/-! ## The granules of a beat -/

/-- A granule as the receiver passes it on: its data, and the mark where it is poisoned or uncorrectable (R338). -/
def receivedGran (w : Stored) : Granule × Bool :=
  ((decodeGranule w).1, (decodeGranule w).2 == .poisoned || (decodeGranule w).2 == .uncorrectable)

@[simp] theorem seamGran_granule (b : Block) (east : Bool) (c : Nat) (w : Stored) :
    (seamGran b east c w).1 = receivedGran w := by
  unfold seamGran receivedGran
  split <;> rename_i h <;> simp [h]

@[simp] theorem seamPart_granules (east : Bool) (c : Nat) (l : List Stored) (b : Block) :
    (seamPart east c l b).1 = l.map receivedGran := by
  induction l generalizing b with
  | nil => rfl
  | cons w r ih => simp [seamPart, ih]

theorem poisonGrans_granules (n : Nat) (b : Block) :
    (poisonGrans n b).1.length = n ∧ ∀ g ∈ (poisonGrans n b).1, g.2 = true := by
  induction n generalizing b with
  | zero => simp [poisonGrans]
  | succ n ih =>
    obtain ⟨hlen, hall⟩ := ih (poisonGran b).2
    simp only [poisonGrans, List.length_cons, hlen, List.forall_mem_cons, true_and]
    exact ⟨rfl, hall⟩

theorem partOf_here (east : Bool) {words : List (Nat × BitVec 144)} {c : Nat} (b : Block)
    (h : partHere words c = true) : (partOf east words c b).1 = (partWords words c).map receivedGran := by
  simp [partOf, h]

theorem partWords_length {words : List (Nat × BitVec 144)} {c : Nat} (h : partHere words c = true) :
    (partWords words c).length = 8 := by
  have h8 : 8 ≤ (words.filter (fun w => w.1 == c)).length := by
    rw [← List.countP_eq_length_filter]
    exact of_decide_eq_true h
  rw [partWords, List.length_take, List.length_map]
  exact Nat.min_eq_left h8

/-- A channel's part of a beat is eight granules, delivered or poisoned. -/
@[simp] theorem partOf_length (east : Bool) (words : List (Nat × BitVec 144)) (c : Nat) (b : Block) :
    (partOf east words c b).1.length = 8 := by
  by_cases h : partHere words c = true
  · simp [partOf_here east b h, partWords_length h]
  · simp [partOf, h, (poisonGrans_granules 8 b).1]

theorem partOf_missing (east : Bool) {words : List (Nat × BitVec 144)} {c k : Nat} (b : Block)
    (h : partHere words c = false) (hk : k < 8) : ((partOf east words c b).1.getD k (0, false)).2 = true := by
  obtain ⟨hlen, hall⟩ := poisonGrans_granules 8 b
  have hk' : k < (poisonGrans 8 b).1.length := by rw [hlen]; exact hk
  have hget : (poisonGrans 8 b).1.getD k (0, false) = (poisonGrans 8 b).1[k] := by
    rw [List.getD_eq_getElem?_getD, List.getElem?_eq_getElem hk', Option.getD_some]
  simp only [partOf, h, Bool.false_eq_true, if_false, hget]
  exact hall _ (List.getElem_mem hk')

/-- A place of a part that has been delivered. -/
theorem partOf_getD_here (east : Bool) {words : List (Nat × BitVec 144)} {c k : Nat} (b : Block)
    (h : partHere words c = true) (hk : k < 8) :
    (partOf east words c b).1.getD k (0, false) = receivedGran ((partWords words c).getD k 0) := by
  have hk' : k < (partWords words c).length := by rw [partWords_length h]; exact hk
  simp [partOf_here east b h, hk']

/-- With every part there, a beat is the granules of the channels' words in order. -/
theorem seamParts_whole (east : Bool) (words : List (Nat × BitVec 144)) (chans : List Nat) (b : Block)
    (h : ∀ c ∈ chans, partHere words c = true) :
    (seamParts east words chans b).1 = chans.flatMap (fun c => (partWords words c).map receivedGran) := by
  induction chans generalizing b with
  | nil => rfl
  | cons c r ih =>
    obtain ⟨hc, hr⟩ := List.forall_mem_cons.1 h
    simp only [seamParts, List.flatMap_cons, partOf_here east b hc, ih _ hr]

theorem seamParts_length (east : Bool) (words : List (Nat × BitVec 144)) (chans : List Nat) (b : Block) :
    (seamParts east words chans b).1.length = 8 * chans.length := by
  induction chans generalizing b with
  | nil => rfl
  | cons c r ih =>
    simp only [seamParts, List.length_append, partOf_length, ih, List.length_cons]
    omega

/-- Places 8 i to 8 i + 7 of a beat hold the part of its channel i. -/
theorem seamParts_getD (east : Bool) (words : List (Nat × BitVec 144)) (chans : List Nat) (b : Block) {i k c : Nat}
    (hi : chans[i]? = some c) (hk : k < 8) (d : Granule × Bool) :
    ∃ b', (seamParts east words chans b).1.getD (8 * i + k) d = (partOf east words c b').1.getD k d := by
  induction chans generalizing b i with
  | nil => simp at hi
  | cons a r ih =>
    have hlen : (partOf east words a b).1.length = 8 := partOf_length ..
    cases i with
    | zero =>
      obtain rfl : a = c := by simpa using hi
      refine ⟨b, ?_⟩
      simp only [seamParts, List.getD_eq_getElem?_getD]
      rw [Nat.mul_zero, Nat.zero_add, List.getElem?_append_left (by omega)]
    | succ i =>
      have hoff : 8 * (i + 1) + k - 8 = 8 * i + k := by omega
      simp only [seamParts, List.getD_eq_getElem?_getD]
      rw [List.getElem?_append_right (by omega), hlen, hoff]
      simp only [← List.getD_eq_getElem?_getD]
      exact ih _ (by simpa using hi)

/-! ## The words that a beat leaves -/

/-- Of each channel a beat takes the first words up to eight, counting those it has taken before. -/
theorem filter_afterBeat (took : Table Nat) (l : List (Nat × BitVec 144)) (c : Nat) :
    (afterBeat took l).filter (fun w => w.1 == c) = (l.filter (fun w => w.1 == c)).drop (8 - Table.get 0 took c) := by
  induction l generalizing took with
  | nil => simp [afterBeat]
  | cons w r ih =>
    by_cases hn : Table.get 0 took w.1 < 8
    · simp only [afterBeat, hn, if_true, ih, Table.get_put]
      by_cases hw : w.1 = c
      · subst hw
        obtain ⟨m, hm⟩ : ∃ m, 8 - Table.get 0 took w.1 = m + 1 := ⟨7 - Table.get 0 took w.1, by omega⟩
        simp [hm, show 8 - (Table.get 0 took w.1 + 1) = m by omega]
      · simp [hw, Ne.symm hw]
    · simp only [afterBeat, hn, if_false]
      by_cases hw : w.1 = c
      · subst hw
        simp [ih, show 8 - Table.get 0 took w.1 = 0 by omega]
      · simp [hw, ih]

/-! ## The release of a beat -/

theorem beatOf_releaseBeat (east : Bool) (b : Block) :
    beatOf (releaseBeat east b) east = (seamParts east (arrivedOf b east) (beatChans b) b).1 := by
  simp [releaseBeat]

theorem arrivedOf_releaseBeat (east : Bool) (b : Block) :
    arrivedOf (releaseBeat east b) east = afterBeat [] (arrivedOf b east) := by
  simp [releaseBeat]

/-- A release leaves Lee and the other direction as they were. -/
theorem releaseBeat_frame (east : Bool) (b : Block) :
    (releaseBeat east b).lee = b.lee ∧ arrivedOf (releaseBeat east b) (!east) = arrivedOf b (!east) ∧
      beatOf (releaseBeat east b) (!east) = beatOf b (!east) := by
  obtain ⟨hlee, harr, hout⟩ :=
    (beatView_eq_iff b _).1 (beatView_seamParts east (arrivedOf b east) (beatChans b) b)
  simp [releaseBeat, hlee, harr, hout]

/-- The words waiting once the words of active channels have joined those that had arrived (R19). -/
def joined (b : Block) (east : Bool) (words : List (Nat × BitVec 144)) : List (Nat × BitVec 144) :=
  arrivedOf b east ++ words.filter (fun w => (beatChans b).contains w.1)

theorem seamBeat_of_width_zero {b : Block} (east : Bool) (words : List (Nat × BitVec 144)) (h : seamWidth b = 0) :
    seamBeat east words b = b := by simp [seamBeat, h]

theorem seamBeat_waits {b : Block} {east : Bool} {words : List (Nat × BitVec 144)} (h : seamWidth b ≠ 0)
    (hw : (beatChans b).all (partHere (joined b east words)) = false) :
    seamBeat east words b = setArrived b east (joined b east words) := by
  unfold joined at *
  simp only [seamBeat, h, if_false, beatChans_setArrived, arrivedOf_setArrived, hw, Bool.false_eq_true]

theorem seamBeat_releases {b : Block} {east : Bool} {words : List (Nat × BitVec 144)} (h : seamWidth b ≠ 0)
    (hw : (beatChans b).all (partHere (joined b east words)) = true) :
    seamBeat east words b = releaseBeat east (setArrived b east (joined b east words)) := by
  unfold joined at *
  simp only [seamBeat, h, if_false, beatChans_setArrived, arrivedOf_setArrived, hw, if_true]

/-! ## Channels that miss a beat -/

/-- A channel that is to be retired. -/
def markQualified (b : Block) (c : Nat) : Block := putCh b c { getCh b c with qualified := true }

theorem qualified_markQualified (b : Block) (c j : Nat) :
    (getCh (markQualified b c) j).qualified = (decide (j = c) || (getCh b j).qualified) := by
  by_cases h : j = c <;> simp [markQualified, getCh_putCh, h]

theorem qualified_foldl_markQualified (l : List Nat) (b : Block) (j : Nat)
    (h : j ∈ l ∨ (getCh b j).qualified = true) : (getCh (l.foldl markQualified b) j).qualified = true := by
  induction l generalizing b with
  | nil => simpa using h
  | cons c r ih =>
    refine ih _ ?_
    rcases h with h | h
    · rcases List.mem_cons.1 h with rfl | h
      · exact Or.inr (by simp [qualified_markQualified])
      · exact Or.inl h
    · exact Or.inr (by simp [qualified_markQualified, h])

@[simp] theorem beatView_foldl_markQualified (l : List Nat) (b : Block) :
    beatView (l.foldl markQualified b) = beatView b := by
  induction l generalizing b with
  | nil => rfl
  | cons c r ih => exact ih _

/-- A beat that a channel still misses after 64 port cycles (R344). -/
def beatDue (b : Block) (east : Bool) (c : Nat) : Prop :=
  (getCh b c).state = 1 ∧ seamWidth b ≠ 0 ∧ arrivedOf b east ≠ [] ∧ partHere (arrivedOf b east) c = false

theorem beatPartMissing_of_not_due {b : Block} {east : Bool} {c : Nat} (h : ¬ beatDue b east c) :
    beatPartMissing east c b = b := by
  refine if_pos (Decidable.byContradiction fun hn => h ?_)
  simp only [not_or, Bool.not_eq_true, ne_eq, Decidable.not_not] at hn
  exact hn

theorem beatPartMissing_of_due {b : Block} {east : Bool} {c : Nat} (h : beatDue b east c) :
    beatPartMissing east c b =
      ((beatChans b).filter (fun j => !partHere (arrivedOf b east) j)).foldl markQualified (releaseBeat east b) := by
  refine if_neg ?_
  obtain ⟨hst, hwidth, hwords, hpart⟩ := h
  simp [hst, hwidth, hwords, hpart]

end Sys2Proof.Machine

/-! PROOF. The retirement of a seam channel: the channels after it, what it leaves as it was, and the transfers that it
ends where the last channel is gone (R20, R21, R345). -/

namespace Sys2Proof.Machine

/-! ## Folds -/

/-- What every step of a fold keeps, the fold keeps. -/
theorem foldl_keeps {α β γ : Type} (view : β → γ) (f : β → α → β) (h : ∀ b a, view (f b a) = view b) (l : List α)
    (b : β) : view (l.foldl f b) = view b := by
  induction l generalizing b with
  | nil => rfl
  | cons a r ih => exact (ih _).trans (h b a)

/-- What one step of a fold brings about and every step keeps, holds after the fold. -/
theorem foldl_reaches {α β : Type} (P : β → Prop) (f : β → α → β) {a : α} (keeps : ∀ b x, P b → P (f b x))
    (l : List α) (b : β) (reaches : ∀ b, P (f b a)) (h : a ∈ l) : P (l.foldl f b) := by
  obtain ⟨pre, post, rfl⟩ := List.append_of_mem h
  rw [List.foldl_append, List.foldl_cons]
  exact List.foldlRecOn post f (reaches _) (fun b hb x _ => keeps b x hb)

/-! ## The map of channels after a retirement -/

theorem renumber_state (l : List Nat) (b : Block) (i j : Nat) :
    (getCh (renumber b l i) j).state = (getCh b j).state := by
  induction l generalizing b i with
  | nil => rfl
  | cons c r ih =>
    rw [renumber, ih, getCh_putCh]
    split
    · rename_i h; subst h; rfl
    · rfl

/-- A renumbering changes the channels alone. -/
theorem renumber_frame (l : List Nat) (b : Block) (i : Nat) :
    ∃ chans, renumber b l i = { b with seam := { b.seam with chans := chans } } := by
  induction l generalizing b i with
  | nil => exact ⟨b.seam.chans, rfl⟩
  | cons c r ih =>
    obtain ⟨chans, h⟩ := ih (putCh b c { getCh b c with logical := i }) (i + 1)
    exact ⟨chans, h⟩

/-- The block with a channel retired and no other in its place yet. -/
def withoutCh (b : Block) (c : Nat) : Block := putCh b c { getCh b c with state := 2, qualified := false }

theorem getCh_withoutCh (b : Block) (c j : Nat) :
    getCh (withoutCh b c) j = if j = c then { getCh b c with state := 2, qualified := false } else getCh b j :=
  getCh_putCh ..

/-- The spares stay as they were when an active channel goes. -/
theorem chansIn_withoutCh {b : Block} {c : Nat} (h : (getCh b c).state = 1) :
    chansIn (withoutCh b c) 0 = chansIn b 0 := by
  refine List.filter_congr fun j _ => ?_
  rw [getCh_withoutCh]
  split
  · rename_i hj; subst hj; simp [h]
  · rfl

theorem retireMap_of_spare {b : Block} {c i : Nat} {r : List Nat} (h : (getCh b c).state = 1)
    (hs : chansIn b 0 = i :: r) :
    retireMap b c = putCh (withoutCh b c) i { getCh b i with state := 1, logical := (getCh b c).logical } := by
  have hi : (getCh b i).state = 0 := ((mem_chansIn b 0 i).1 (hs ▸ List.mem_cons_self)).2
  have hne : i ≠ c := by rintro rfl; omega
  have hw : chansIn (withoutCh b c) 0 = i :: r := (chansIn_withoutCh h).trans hs
  have hget : getCh (withoutCh b c) i = getCh b i := by rw [getCh_withoutCh, if_neg hne]
  unfold withoutCh at *
  simp only [retireMap, hw, hget]

theorem retireMap_of_no_spare {b : Block} {c : Nat} (h : (getCh b c).state = 1) (hs : chansIn b 0 = []) :
    retireMap b c = renumber (withoutCh b c) (chansIn (withoutCh b c) 1) 0 := by
  have hw : chansIn (withoutCh b c) 0 = [] := (chansIn_withoutCh h).trans hs
  unfold withoutCh at *
  simp only [retireMap, hw]

/-- A retirement's map changes the channels alone. -/
theorem retireMap_frame {b : Block} {c : Nat} (h : (getCh b c).state = 1) :
    ∃ chans, retireMap b c = { b with seam := { b.seam with chans := chans } } := by
  cases hs : chansIn b 0 with
  | nil =>
    obtain ⟨chans, hr⟩ := renumber_frame (chansIn (withoutCh b c) 1) (withoutCh b c) 0
    exact ⟨chans, (retireMap_of_no_spare h hs).trans hr⟩
  | cons i r => exact ⟨_, retireMap_of_spare h hs⟩

/-- One channel fewer in a state. -/
theorem chansIn_length_of_leaves {b b' : Block} {st c : Nat} (hc : c ∈ chansIn b st)
    (h : ∀ j, (getCh b' j).state = st ↔ (getCh b j).state = st ∧ j ≠ c) :
    (chansIn b' st).length + 1 = (chansIn b st).length := by
  have hnodup : (chansIn b st).Nodup := List.nodup_range.filter _
  have herase : chansIn b' st = (chansIn b st).erase c := by
    rw [hnodup.erase_eq_filter, chansIn, chansIn, List.filter_filter]
    refine List.filter_congr fun j _ => ?_
    rw [Bool.eq_iff_iff]
    simp [h, and_comm]
  have hpos : 0 < (chansIn b st).length := List.length_pos_of_mem hc
  rw [herase, List.length_erase_of_mem hc]
  omega

theorem chansIn_withoutCh_length {b : Block} {c : Nat} (hc : c < 34) (h : (getCh b c).state = 1) :
    (chansIn (withoutCh b c) 1).length + 1 = (chansIn b 1).length := by
  refine chansIn_length_of_leaves ((mem_chansIn b 1 c).2 ⟨hc, h⟩) fun j => ?_
  rw [getCh_withoutCh]
  by_cases hj : j = c <;> simp [hj]

theorem retireMap_state_self {b : Block} {c : Nat} (h : (getCh b c).state = 1) :
    (getCh (retireMap b c) c).state = 2 := by
  cases hs : chansIn b 0 with
  | nil => rw [retireMap_of_no_spare h hs, renumber_state, getCh_withoutCh, if_pos rfl]
  | cons i r =>
    have hi : (getCh b i).state = 0 := ((mem_chansIn b 0 i).1 (hs ▸ List.mem_cons_self)).2
    have hne : c ≠ i := by rintro rfl; omega
    rw [retireMap_of_spare h hs, getCh_putCh, if_neg hne, getCh_withoutCh, if_pos rfl]

/-- A spare takes the place of the channel, and as many are active as before (R20). -/
theorem retireMap_spare {b : Block} {c i : Nat} {r : List Nat} (hc : c < 34) (h : (getCh b c).state = 1)
    (hs : chansIn b 0 = i :: r) :
    (getCh (retireMap b c) i).state = 1 ∧ (getCh (retireMap b c) i).logical = (getCh b c).logical ∧
      (chansIn (retireMap b c) 1).length = (chansIn b 1).length := by
  obtain ⟨hlt, hi⟩ := (mem_chansIn b 0 i).1 (hs ▸ List.mem_cons_self)
  have hne : i ≠ c := by rintro rfl; omega
  rw [retireMap_of_spare h hs]
  have hlen := chansIn_withoutCh_length hc h
  have hone : (chansIn (withoutCh b c) 1).length + 1 =
      (chansIn (putCh (withoutCh b c) i { getCh b i with state := 1, logical := (getCh b c).logical }) 1).length := by
    refine chansIn_length_of_leaves ((mem_chansIn _ 1 i).2 ⟨hlt, by simp⟩) fun j => ?_
    rw [getCh_putCh]
    by_cases hj : j = i
    · simp [hj, getCh_withoutCh, hne, hi]
    · simp [hj]
  exact ⟨by simp, by simp, by omega⟩

theorem retireMap_no_spare {b : Block} {c : Nat} (hc : c < 34) (h : (getCh b c).state = 1) (hs : chansIn b 0 = []) :
    (chansIn (retireMap b c) 1).length + 1 = (chansIn b 1).length := by
  have hsame : chansIn (retireMap b c) 1 = chansIn (withoutCh b c) 1 := by
    rw [retireMap_of_no_spare h hs]
    exact List.filter_congr fun j _ => by rw [renumber_state]
  rw [hsame, chansIn_withoutCh_length hc h]

/-! ## The end of transfers that must cross (R21) -/

/-- What a stop at the seam leaves as it was. -/
def stopView (b : Block) : Seam × HostIf × Start × Lee := (b.seam, b.host, b.start, b.lee)

theorem stopView_eq_iff (b b' : Block) : stopView b' = stopView b ↔
    b'.seam = b.seam ∧ b'.host = b.host ∧ b'.start = b.start ∧ b'.lee = b.lee := by simp [stopView]

@[simp] theorem stopView_stopJob (b : Block) (code : Nat) : stopView (stopJob b code) = stopView b := by
  unfold stopJob; split <;> rfl

@[simp] theorem stopJob_streams (b : Block) (code : Nat) : (stopJob b code).streams = b.streams := by
  unfold stopJob; split <;> rfl

@[simp] theorem stopView_noteFirst (b : Block) (e pc : Nat) : stopView (noteFirst b e pc) = stopView b := by
  unfold noteFirst; split <;> rfl

@[simp] theorem noteFirst_streams (b : Block) (e pc : Nat) : (noteFirst b e pc).streams = b.streams := by
  unfold noteFirst; split <;> rfl

theorem stopView_taskFault (b : Block) (e pc fault : Nat) : stopView (taskFault b e pc fault) = stopView b := by
  simp only [taskFault, stopView_stopJob, stopView_noteFirst]
  rfl

theorem taskFault_streams (b : Block) (e pc fault : Nat) : (taskFault b e pc fault).streams = b.streams := by
  simp only [taskFault, stopJob_streams, noteFirst_streams]
  rfl

@[simp] theorem stopView_seamError (b : Block) (src : Nat) : stopView (seamError b src) = stopView b :=
  stopView_stopJob ..

@[simp] theorem seamError_streams (b : Block) (src : Nat) : (seamError b src).streams = b.streams :=
  stopJob_streams ..

theorem stopView_endActive (b : Block) (sid code : Nat) (drop : Bool) :
    stopView (endActive b sid code drop) = stopView b := by
  simp only [endActive]
  split
  · rfl
  · split
    · split <;> rfl
    · rfl

theorem stopView_crossingEnds (b : Block) (sid : Nat) : stopView (crossingEnds b sid) = stopView b :=
  (stopView_endActive ..).trans (stopView_seamError ..)

theorem stopView_codecLost (b : Block) (u : Nat) : stopView (codecLost b u) = stopView b :=
  stopView_seamError b (0x2000 + u)

theorem codecLost_streams (b : Block) (u : Nat) : (codecLost b u).streams = b.streams :=
  seamError_streams b (0x2000 + u)

theorem stopView_seamStop (b : Block) : stopView (seamStop b) = stopView b := by
  unfold seamStop
  split
  · rfl
  · rw [foldl_keeps stopView codecLost stopView_codecLost, foldl_keeps stopView crossingEnds stopView_crossingEnds]
    exact foldl_keeps stopView drainLost (fun b e => stopView_taskFault b e _ _) _ _

/-- A transfer of the stream, if it has one, is ending. -/
def streamQuiet (b : Block) (sid : Nat) : Prop := ∀ x, (getStream b sid).active = some x → x.ending.isSome = true

/-- What an abort does to the streams: a transfer of its own that was going on is ending, and nothing else changes. -/
theorem getStream_endActive (b : Block) (sid code j : Nat) :
    (getStream (endActive b sid code false) j = getStream b j ∧ (j = sid → streamQuiet b sid)) ∨
      (j = sid ∧ (getStream b j).active.isSome = true ∧
        ∃ y, (getStream (endActive b sid code false) j).active = some y ∧ y.ending.isSome = true) := by
  simp only [endActive]
  split
  · rename_i hx
    exact Or.inl ⟨rfl, fun _ x h => by simp [hx] at h⟩
  · rename_i x hx
    split
    · rename_i hend
      exact Or.inl ⟨rfl, fun _ y h => by simp_all⟩
    · by_cases hj : j = sid
      · subst hj
        exact Or.inr ⟨rfl, by simp [hx], _, congrArg Stream.active (getStream_putStream b j _), rfl⟩
      · exact Or.inl ⟨getStream_putStream_ne b _ hj, fun h => absurd h hj⟩

theorem getStream_seamError (b : Block) (src j : Nat) : getStream (seamError b src) j = getStream b j :=
  congrArg (fun t => Table.get Stream.fresh t j) (seamError_streams b src)

theorem streamQuiet_crossingEnds_self (b : Block) (sid : Nat) : streamQuiet (crossingEnds b sid) sid := by
  intro x hx
  rcases getStream_endActive (seamError b (0x1000 + sid)) sid (Config.seamLostCode % 4096) sid with
    ⟨hsame, hquiet⟩ | ⟨-, -, y, hy, hend⟩
  · rw [crossingEnds, hsame] at hx
    exact hquiet rfl x hx
  · rw [crossingEnds, hy] at hx
    exact Option.some.inj hx ▸ hend

theorem streamQuiet_crossingEnds (b : Block) (sid j : Nat) (h : streamQuiet b j) :
    streamQuiet (crossingEnds b sid) j := by
  by_cases hj : j = sid
  · exact hj ▸ streamQuiet_crossingEnds_self b sid
  · intro x hx
    rcases getStream_endActive (seamError b (0x1000 + sid)) sid (Config.seamLostCode % 4096) j with
      ⟨hsame, -⟩ | ⟨hjs, -⟩
    · rw [crossingEnds, hsame, getStream_seamError] at hx
      exact h x hx
    · exact absurd hjs hj

theorem active_isSome_crossingEnds (b : Block) (sid j : Nat) :
    (getStream (crossingEnds b sid) j).active.isSome = (getStream b j).active.isSome := by
  rcases getStream_endActive (seamError b (0x1000 + sid)) sid (Config.seamLostCode % 4096) j with
    ⟨hsame, -⟩ | ⟨-, hsome, y, hy, -⟩
  · rw [crossingEnds, hsame, getStream_seamError]
  · rw [getStream_seamError] at hsome
    rw [crossingEnds, hy, hsome]
    rfl

theorem streamCrosses_congr {b b' : Block} (h : b'.lee = b.lee) : streamCrosses b' = streamCrosses b := by
  have hlee : epLee b' = epLee b := by
    funext ep
    simp only [epLee, getRegion, h]
  have hplace : epPlace b' = epPlace b := by
    funext n s ep
    rw [epPlace, hlee, epPlace]
  funext n s x
  rw [streamCrosses, hplace, streamCrosses]

theorem Table.mem_of_find {α : Type} {t : Table α} {k : Nat} {v : α} (h : Table.find t k = some v) : (k, v) ∈ t := by
  induction t with
  | nil => simp [Table.find] at h
  | cons p r ih =>
    by_cases hp : p.1 = k
    · obtain rfl : p.2 = v := by simpa [Table.find, hp] using h
      exact hp ▸ List.mem_cons_self
    · exact List.mem_cons_of_mem _ (ih (by simpa [Table.find, hp] using h))

/-- A stream with a transfer is listed. -/
theorem stream_mem_of_active {b : Block} {sid : Nat} {x : Xfer} (h : (getStream b sid).active = some x) :
    (sid, getStream b sid) ∈ b.streams := by
  refine Table.mem_of_find ?_
  cases hf : Table.find b.streams sid with
  | some s => rw [getStream, Table.get, hf, Option.getD_some]
  | none =>
    rw [getStream, Table.get, hf] at h
    exact absurd h (by simp [Stream.fresh])

/-- With no channel left, every transfer that must cross is ending. -/
theorem seamStop_ends_crossing {b : Block} {sid : Nat} {x : Xfer} (hdown : seamDown b = true)
    (hx : (getStream b sid).active = some x) (hcross : streamCrosses b (sid / 256) (getStream b sid) x = true) :
    (getStream (seamStop b) sid).active.any (fun y => y.ending.isSome) = true := by
  simp only [seamStop, hdown, Bool.not_true, Bool.false_eq_true, if_false]
  generalize hb1 : List.foldl drainLost b _ = b1
  have hlee : b1.lee = b.lee := by
    have hview := foldl_keeps stopView drainLost (fun b e => stopView_taskFault b e _ _)
      (((b.eddies.filter (fun p => p.2.run == .running && drainCrosses p.1 p.2)).map (·.1))) b
    rw [hb1] at hview
    exact ((stopView_eq_iff b b1).1 hview).2.2.2
  have hstreams : b1.streams = b.streams := by
    rw [← hb1]
    exact foldl_keeps Block.streams drainLost (fun b e => taskFault_streams b e _ _) _ b
  have hget : getStream b1 sid = getStream b sid := by rw [getStream, hstreams, getStream]
  generalize hl : List.map _ (b1.streams.filter _) = sids
  have hmem : sid ∈ sids := by
    rw [← hl, hstreams, streamCrosses_congr hlee]
    exact List.mem_map.2 ⟨_, List.mem_filter.2 ⟨stream_mem_of_active hx, by simp [hx, hcross]⟩, rfl⟩
  have hquiet : streamQuiet (sids.foldl crossingEnds b1) sid :=
    foldl_reaches (fun b => streamQuiet b sid) crossingEnds (fun b j h => streamQuiet_crossingEnds b j sid h) sids b1
      (fun b => streamQuiet_crossingEnds_self b sid) hmem
  have hsome : (getStream (sids.foldl crossingEnds b1) sid).active.isSome = true := by
    rw [foldl_keeps (fun b => (getStream b sid).active.isSome) crossingEnds
      (fun b j => active_isSome_crossingEnds b j sid), hget, hx]
    rfl
  obtain ⟨y, hy⟩ := Option.isSome_iff_exists.1 hsome
  have hkeep := foldl_keeps Block.streams codecLost codecLost_streams
  rw [getStream, hkeep, ← getStream, hy]
  exact hquiet y hy

/-! ## The retirement of a qualified channel (R345) -/

theorem seamRetired_of_blocked {b : Block} {c : Nat}
    (h : (getCh b c).qualified = false ∨ (getCh b c).state ≠ 1 ∨ inCalm b = true) : seamRetired c b = b := by
  refine if_pos ?_
  rcases h with hq | hst | hcalm
  · exact Or.inr (Or.inl hq)
  · exact Or.inl hst
  · exact Or.inr (Or.inr hcalm)

/-- The block after a retirement's map, its two reports and the change of the record, before any transfer ends. -/
def retiredBlock (b : Block) (c : Nat) : Block :=
  let m := retireMap b c
  let d := BitVec.ofNat 128 (c + seamWidth m * 256)
  bumpRecord (report (report m (seamSource false c) 0x482 d) (seamSource true c) 0x482 d)

theorem seamRetired_of_qualified {b : Block} {c : Nat} (h : (getCh b c).state = 1)
    (hq : (getCh b c).qualified = true) (hcalm : inCalm b = false) :
    seamRetired c b = seamStop (retiredBlock b c) := by
  refine if_neg ?_
  simp [h, hq, hcalm]

/-- A retirement leaves streams and Lee, and a trained seam out of Calm mode stays one. -/
theorem retiredBlock_frame {b : Block} {c : Nat} (h : (getCh b c).state = 1) :
    (retiredBlock b c).streams = b.streams ∧ (retiredBlock b c).lee = b.lee ∧ (retiredBlock b c).start = b.start ∧
      (retiredBlock b c).host.updateSeq = b.host.updateSeq + 1 ∧
      (retiredBlock b c).seam.trained = b.seam.trained ∧ (retiredBlock b c).seam = (retireMap b c).seam := by
  obtain ⟨chans, hm⟩ := retireMap_frame h
  simp only [retiredBlock, hm]
  exact ⟨rfl, rfl, rfl, rfl, rfl, rfl⟩

end Sys2Proof.Machine

/-! PROOF. The statement about the seam, clause by clause (R19 to R22, R338, R344, R345, R358). -/

namespace Sys2Proof.Machine

open Sys2Proof.Safety

/-- A beat that is released holds what the granule code gives, and takes eight words of every channel. -/
theorem seamBeat_whole {b : Block} {east : Bool} {words : List (Nat × BitVec 144)} (h : seamWidth b ≠ 0)
    (hw : (beatChans b).all (partHere (joined b east words)) = true) :
    beatOf (seamBeat east words b) east =
        (beatChans b).flatMap (fun c => (partWords (joined b east words) c).map receivedGran) ∧
      ∀ c, (arrivedOf (seamBeat east words b) east).filter (fun w => w.1 == c) =
        ((joined b east words).filter (fun w => w.1 == c)).drop 8 := by
  rw [seamBeat_releases h hw]
  refine ⟨?_, fun c => ?_⟩
  · rw [beatOf_releaseBeat, arrivedOf_setArrived, beatChans_setArrived,
      seamParts_whole _ _ _ _ (List.all_eq_true.1 hw)]
  · rw [arrivedOf_releaseBeat, arrivedOf_setArrived, filter_afterBeat]
    rfl

/-- Lee and the other direction stay, whether a beat is released or not. -/
theorem seamBeat_frame {b : Block} (east : Bool) (words : List (Nat × BitVec 144)) (h : seamWidth b ≠ 0) :
    beatOf (seamBeat east words b) (!east) = beatOf b (!east) ∧
      arrivedOf (seamBeat east words b) (!east) = arrivedOf b (!east) ∧ (seamBeat east words b).lee = b.lee := by
  cases hw : (beatChans b).all (partHere (joined b east words)) with
  | false => simp [seamBeat_waits h hw]
  | true =>
    obtain ⟨hlee, harr, hout⟩ := releaseBeat_frame east (setArrived b east (joined b east words))
    rw [seamBeat_releases h hw, hlee, harr, hout]
    simp

/-- A completed beat: eight places of every channel, poisoned where its part is missing, and those channels qualify. -/
theorem beatPartMissing_completes {b : Block} {east : Bool} {c : Nat} (h : beatDue b east c) :
    let t := beatPartMissing east c b
    let words := arrivedOf b east
    (beatOf t east).length = 8 * (beatChans b).length ∧
      (∀ j ∈ beatChans b, partHere words j = false → (getCh t j).qualified = true) ∧
      ∀ i k j, (beatChans b)[i]? = some j → k < 8 →
        (partHere words j = false → ((beatOf t east).getD (8 * i + k) (0, false)).2 = true) ∧
        (partHere words j = true →
          (beatOf t east).getD (8 * i + k) (0, false) = receivedGran ((partWords words j).getD k 0)) := by
  intro t words
  have hbeat : beatOf t east = (seamParts east words (beatChans b) b).1 := by
    have hview := ((beatView_eq_iff _ _).1 (beatView_foldl_markQualified
      ((beatChans b).filter (fun j => !partHere (arrivedOf b east) j)) (releaseBeat east b))).2.2
    simp only [t, beatPartMissing_of_due h, hview, beatOf_releaseBeat, words]
  refine ⟨by rw [hbeat, seamParts_length], fun j hj hmiss => ?_, fun i k j hi hk => ?_⟩
  · simp only [t, beatPartMissing_of_due h]
    exact qualified_foldl_markQualified _ _ _ (Or.inl (List.mem_filter.2 ⟨hj, by simpa [words] using hmiss⟩))
  · obtain ⟨b', hplace⟩ := seamParts_getD east words (beatChans b) b hi hk (0, false)
    rw [hbeat, hplace]
    exact ⟨fun hmiss => partOf_missing east b' hmiss hk, fun hhere => partOf_getD_here east b' hhere hk⟩

/-- The width follows the channels while the seam is trained and the block is out of Calm mode (R22). -/
theorem seamWidth_of_trained {b : Block} (ht : b.seam.trained = true) (hcalm : inCalm b = false) :
    seamWidth b = (chansIn b 1).length := by simp [seamWidth, ht, hcalm]

/-- What a retirement brings about: the channel is out, a spare is in or the width falls, the record counts the change,
and with the last channel gone every transfer that must cross is ending (R20, R21, R345). -/
theorem seamRetired_effect {b : Block} {c : Nat} (hc : c < 34) (h : (getCh b c).state = 1)
    (hq : (getCh b c).qualified = true) (ht : b.seam.trained = true) (hcalm : inCalm b = false) :
    let t := seamRetired c b
    (getCh t c).state = 2 ∧ t.host.updateSeq = b.host.updateSeq + 1 ∧
      (∀ i r, chansIn b 0 = i :: r → (getCh t i).state = 1 ∧ (getCh t i).logical = (getCh b c).logical ∧
        seamWidth t = seamWidth b) ∧
      (chansIn b 0 = [] → seamWidth t + 1 = seamWidth b) ∧
      (seamDown t = true → ∀ sid x, (getStream b sid).active = some x →
        streamCrosses b (sid / 256) (getStream b sid) x = true →
        (getStream t sid).active.any (fun y => y.ending.isSome) = true) := by
  intro t
  have hstop : t = seamStop (retiredBlock b c) := seamRetired_of_qualified h hq hcalm
  obtain ⟨hstreams, hlee, hstart, hseq, htrained, hmap⟩ := retiredBlock_frame h
  obtain ⟨hseam, hhost, hstart', -⟩ := (stopView_eq_iff _ _).1 (stopView_seamStop (retiredBlock b c))
  rw [← hstop] at hseam hhost hstart'
  have hget : getCh t = getCh (retireMap b c) := by
    funext j
    rw [getCh, hseam, hmap, getCh]
  have hwidth : seamWidth t = (chansIn (retireMap b c) 1).length := by
    rw [seamWidth_of_trained (by rw [hseam, htrained, ht]) (by rw [inCalm, hstart', hstart]; exact hcalm),
      chansIn, hget, ← chansIn]
  rw [hget, hwidth, seamWidth_of_trained ht hcalm]
  refine ⟨retireMap_state_self h, by rw [hhost, hseq], fun i r hs => retireMap_spare hc h hs,
    retireMap_no_spare hc h, fun hdown sid x hx hcross => ?_⟩
  have hdown' : seamDown (retiredBlock b c) = true := by rwa [seamDown, hseam, ← seamDown] at hdown
  have hsame : getStream (retiredBlock b c) sid = getStream b sid := by rw [getStream, hstreams, getStream]
  rw [hstop]
  exact seamStop_ends_crossing hdown' (hsame ▸ hx) (by rw [hsame, streamCrosses_congr hlee]; exact hcross)

/-- Settles O43: a beat and its later words by induction over the channels and over the waiting words, the map of a
retirement by counting the active channels, and the transfers that end through the fold of R21. Words past a
channel's eight that wait, and words of other channels that are ignored, are the model's choice (log 171). -/
theorem seamBeatsAndChannels : Obligations.SeamBeatsAndChannels := by
  refine ⟨fun s east words => ⟨fun hz => ?_, fun hnz => ?_⟩, fun s east c => ⟨fun hdue => ?_, fun hnot => ?_⟩,
    fun s => ⟨_, rfl, fun c => ?_⟩, fun s c => ⟨fun hst hcalm => ?_, fun hnot => ?_⟩, fun s c hc hst hq ht hcalm => ?_,
    fun s c hblocked => ?_, fun s => ⟨_, rfl, rfl, fun c => ?_⟩⟩
  · exact congrArg (becomes s) (seamBeat_of_width_zero east words hz)
  · obtain ⟨hout, harr, hlee⟩ := seamBeat_frame east words hnz
    refine ⟨{ s with blk := seamBeat east words s.blk }, rfl, hout, harr, hlee, fun hw => ?_,
      fun hw => seamBeat_whole hnz hw⟩
    have hwait := seamBeat_waits hnz hw
    exact ⟨(congrArg (beatOf · east) hwait).trans (beatOf_setArrived ..),
      (congrArg (arrivedOf · east) hwait).trans (arrivedOf_setArrived ..)⟩
  · exact ⟨_, rfl, beatPartMissing_completes hdue⟩
  · exact congrArg (becomes s) (beatPartMissing_of_not_due hnot)
  · simp only [getCh_seamWindow, and_self]
  · exact congrArg (becomes s) (if_pos ⟨hst, hcalm⟩)
  · refine congrArg (becomes s) (if_neg ?_)
    rintro ⟨hst, hcalm⟩
    simp [hst, hcalm] at hnot
  · exact ⟨_, rfl, seamRetired_effect hc hst hq ht hcalm⟩
  · exact congrArg (becomes s) (seamRetired_of_blocked hblocked)
  · simp only [getCh_seamClr, and_self]

end Sys2Proof.Machine

/-! PROOF. What a released cold reset leaves (R365, R367, R368), as one predicate over the block. -/

namespace Sys2Proof.Machine

/-! ## The block after a cold reset -/

/-- Start stage S0 has begun on a block whose every record is at its reset value, but for the input pins, the straps,
the nonce, and the record of what the reset interrupted. -/
structure JustReset (t : Block) : Prop where
  lee : t.lee = Block.reset.lee
  eddies : t.eddies = []
  currents : t.currents = []
  streams : t.streams = []
  ranges : t.ranges = []
  dups : t.dups = 0
  unknown : t.unknown = 0
  seam : t.seam = Seam.reset
  host : t.host = HostIf.reset
  job : t.job = Job.reset
  vanePolicy : t.vaneAuto = true ∧ t.vaneJobs = 2
  port : ∀ f, ∃ peer, getPort t f = { Port.fresh with peer := peer }
  link : ∀ l, ∃ lanes, getLink t l = { Link.fresh with lanes := lanes }
  power : ∃ droop budget, t.power = { Power.reset with droopPin := droop, budgetPin := budget }
  start : ∃ straps, t.start = { Start.reset with coldLow := false, phase := .stage 0, straps := straps } ∧
    straps.curmask = 255
  evt : ∃ waiting, t.evt = { EventLog.reset with waiting := waiting } ∧ ∀ p ∈ waiting, p.1 = 0xC000

theorem getPort_coldClear (b : Block) (f : Nat) :
    getPort (coldClear b) f = { Port.fresh with peer := (getPort b f).peer } :=
  Table.get_mapAll _ _ _ rfl f

/-- A cold reset keeps of a link the input pins of its lanes. -/
theorem getLink_coldClear (b : Block) (l : Nat) : getLink (coldClear b) l =
    { Link.fresh with lanes := (getLink b l).lanes.map (fun x => { Lane.fresh with rdy := x.rdy }) } :=
  Table.get_mapAll _ _ _ (congrArg (fun lanes => { Link.fresh with lanes := lanes }) Vector.map_replicate) l

/-- The free values of a nonce change nothing but their count. -/
theorem takeFreeN_frame (n : Nat) (b : Block) : ∃ k, (takeFreeN n b).2 = { b with fresh := k } := by
  induction n generalizing b with
  | zero => exact ⟨b.fresh, rfl⟩
  | succ n ih =>
    obtain ⟨k, h⟩ := ih (takeFree b).2
    exact ⟨k, h⟩

/-- A nonce and a debug level change the security registers and the count of free values alone. -/
theorem settleLevel_drawNonce_frame (b : Block) :
    ∃ sec k, settleLevel (drawNonce b) = { b with sec := sec, fresh := k } := by
  obtain ⟨k, hk⟩ := takeFreeN_frame 6 b
  refine ⟨(settleLevel (drawNonce b)).sec, k, ?_⟩
  simp only [settleLevel, drawNonce, hk]

/-- The block in S0, with its nonce and level, before Windsock records anything. -/
def inStage0 (b : Block) (st : Straps) : Block :=
  settleLevel (drawNonce { b with start := { b.start with phase := .stage 0, inStage := 0, straps := st } })

theorem inStage0_frame (b : Block) (st : Straps) : ∃ sec k, inStage0 b st = { b with
    start := { b.start with phase := .stage 0, inStage := 0, straps := st }, sec := sec, fresh := k } :=
  settleLevel_drawNonce_frame _

/-- S0 begins: Windsock records what the reset interrupted, if anything (R369). -/
theorem beginStart_cases (b : Block) (st : Straps) :
    (b.start.interrupted = none ∧ beginStart b st = inStage0 b st) ∨
      ∃ n, beginStart b st = report { inStage0 b st with
        start := { (inStage0 b st).start with interrupted := none } } 0xC000 0x80D (BitVec.ofNat 128 n) := by
  obtain ⟨sec, k, h⟩ := inStage0_frame b st
  have hi : (inStage0 b st).start.interrupted = b.start.interrupted := by rw [h]
  unfold inStage0 at *
  simp only [beginStart, hi]
  cases b.start.interrupted with
  | none => exact Or.inl ⟨rfl, rfl⟩
  | some n => exact Or.inr ⟨n, rfl⟩

/-- A notice of Windsock waits in an empty log; no first record is captured for it (R350, R354). -/
theorem report_notice_evt {b : Block} (h : b.evt = EventLog.reset) (d : BitVec 128) :
    (report b 0xC000 0x80D d).evt = { EventLog.reset with waiting := [(0xC000, ⟨0xC000, 8, 0x80D, 1, d⟩)] } := by
  simp only [report, reportAs, h]
  rfl

theorem JustReset.report_notice {b : Block} (h : JustReset b) (he : b.evt = EventLog.reset) (d : BitVec 128) :
    JustReset (report b 0xC000 0x80D d) :=
  { h with evt := ⟨_, report_notice_evt he d, by simp⟩ }

/-- The block that a rising RST_COLD_N leaves before S0 begins. -/
def coldReleased (b : Block) (straps : Word) (fz : Fuses) : Block :=
  { coldClear b with
    start := { (coldClear b).start with coldLow := false, straps := strapsOf straps }
    sec := { (coldClear b).sec with state := lifecycleOf fz } }

theorem rstColdN_released {b : Block} (straps : Word) (fz : Fuses) (hc : b.start.coldLow = true)
    (hw : b.start.warmLow = false) :
    rstColdN straps fz b = beginStart (coldReleased b straps fz) (strapsOf straps) := by
  have hw' : (coldClear b).start.warmLow = false := hw
  simp only [rstColdN, hc, Bool.not_true, Bool.false_eq_true, if_false, hw', coldReleased]

/-- In S0, with what the reset interrupted recorded, every record is at its reset value. -/
theorem justReset_inStage0 (b : Block) (straps : Word) (fz : Fuses) (hw : b.start.warmLow = false)
    (hcur : fld straps.toNat 24 17 = 255) :
    JustReset { inStage0 (coldReleased b straps fz) (strapsOf straps) with
      start := { (inStage0 (coldReleased b straps fz) (strapsOf straps)).start with interrupted := none } } := by
  obtain ⟨sec, k, h⟩ := inStage0_frame (coldReleased b straps fz) (strapsOf straps)
  rw [h]
  constructor
  case port => exact fun f => ⟨_, getPort_coldClear b f⟩
  case link => exact fun l => ⟨_, getLink_coldClear b l⟩
  case power => exact ⟨_, _, rfl⟩
  case evt => exact ⟨[], rfl, by simp⟩
  case vanePolicy => exact ⟨rfl, rfl⟩
  case start =>
    refine ⟨strapsOf straps, ?_, by simp [strapsOf, hcur]⟩
    simp only [coldReleased, coldClear, hw]
    rfl
  all_goals rfl

/-- RST_COLD_N rises while RST_WARM_N is high and the straps enable every Current. -/
theorem justReset_rstColdN {b : Block} (straps : Word) (fz : Fuses) (hc : b.start.coldLow = true)
    (hw : b.start.warmLow = false) (hcur : fld straps.toNat 24 17 = 255) : JustReset (rstColdN straps fz b) := by
  have hreset := justReset_inStage0 b straps fz hw hcur
  obtain ⟨sec, k, h⟩ := inStage0_frame (coldReleased b straps fz) (strapsOf straps)
  rw [rstColdN_released straps fz hc hw]
  rcases beginStart_cases (coldReleased b straps fz) (strapsOf straps) with ⟨hnone, hb⟩ | ⟨n, hb⟩
  · have hi : (inStage0 (coldReleased b straps fz) (strapsOf straps)).start.interrupted = none := by
      rw [h]; exact hnone
    rw [hb]
    rwa [← hi] at hreset
  · rw [hb]
    exact hreset.report_notice (by rw [h]; rfl) _

end Sys2Proof.Machine

/-! PROOF. The windows of the register space by address, and what each group of registers reads just after a cold
reset (R22, R95, R127, R227, R249, R307, R332, R356, R357, R382, R399, R424, R440). -/

namespace Sys2Proof.Machine

open Sys2Proof.Safety

/-! ## Addresses (R424) -/

theorem winOf_cur {n o : Nat} (hn : n < 8) (ho : o < 0x100000) :
    winOf (0x1000000 + 0x100000 * n + o) = some (.cur n, o) := by
  simp (disch := omega) only [winOf, if_neg, if_pos, Option.some.injEq, Prod.mk.injEq, Win.cur.injEq]
  omega

theorem winOf_link {l o : Nat} (hl : l < 24) (ho : o < 0x10000) :
    winOf (0x2000000 + 0x10000 * l + o) = some (.link l, o) := by
  simp (disch := omega) only [winOf, if_neg, if_pos, Option.some.injEq, Prod.mk.injEq, Win.link.injEq]
  omega

theorem winOf_port {f o : Nat} (hf : f < 64) (ho : o < 0x1000) :
    winOf (0x3000000 + 0x1000 * f + o) = some (.port f, o) := by
  simp (disch := omega) only [winOf, if_neg, if_pos, Option.some.injEq, Prod.mk.injEq, Win.port.injEq]
  omega

theorem regValue_wsk (fz : Fuses) {t : Block} {a : Nat} (ha : a < 0x100000) : regValue fz t a = readWsk t a := by
  have hw : winOf a = some (.wsk, a) := by simp (disch := omega) only [winOf, if_neg, if_pos]
  rw [regValue, hw]

theorem regValue_dsp (fz : Fuses) {t : Block} {a : Nat} (hl : 0x100000 ≤ a) (ha : a < 0x200000) :
    regValue fz t a = readDsp t (a - 0x100000) := by
  have hw : winOf a = some (.dsp, a - 0x100000) := by simp (disch := omega) only [winOf, if_neg, if_pos]
  rw [regValue, hw]

theorem regValue_start (fz : Fuses) {t : Block} {a : Nat} (hl : 0x200000 ≤ a) (ha : a < 0x300000) :
    regValue fz t a = readStart t (a - 0x200000) := by
  have hw : winOf a = some (.start, a - 0x200000) := by simp (disch := omega) only [winOf, if_neg, if_pos]
  rw [regValue, hw]

theorem regValue_ranges (fz : Fuses) {t : Block} {a : Nat} (hl : 0x21F0000 ≤ a) (ha : a < 0x2200000) :
    regValue fz t a = readRanges t (a - 0x21F0000) := by
  have hw : winOf a = some (.ranges, a - 0x21F0000) := by simp (disch := omega) only [winOf, if_neg, if_pos]
  rw [regValue, hw]

theorem regValue_seam (fz : Fuses) {t : Block} {a : Nat} (hl : 0x4000000 ≤ a) (ha : a < 0x4010000) :
    regValue fz t a = readSeam t (a - 0x4000000) := by
  have hw : winOf a = some (.seam, a - 0x4000000) := by simp (disch := omega) only [winOf, if_neg, if_pos]
  rw [regValue, hw]

/-- A read in the window of a Current. -/
theorem regValue_cur (fz : Fuses) {t : Block} {n a : Nat} (o : Nat) (hn : n < 8) (ho : o < 0x100000)
    (ha : a = 0x1000000 + 0x100000 * n + o) : regValue fz t a = readCurrent t n o := by
  rw [ha, regValue, winOf_cur hn ho]

theorem regValue_eddy (fz : Fuses) {t : Block} {n e a : Nat} (o : Nat) (hu : curUsable t n = true) (hn : n < 8)
    (he : e < 16) (ho : o < 0x8000) (ha : a = 0x1000000 + 0x100000 * n + 0x8000 * e + o) :
    regValue fz t a = readEddy t (16 * n + e) o := by
  rw [regValue_cur fz (0x8000 * e + o) hn (by omega) (by omega)]
  simp only [readCurrent, hu, Bool.not_true, Bool.false_eq_true, if_false, show 0x8000 * e + o < 0x80000 by omega,
    if_true, show (0x8000 * e + o) / 0x8000 = e by omega, show (0x8000 * e + o) % 0x8000 = o by omega]

theorem regValue_stream (fz : Fuses) {t : Block} {n i a : Nat} (o : Nat) (hu : curUsable t n = true) (hn : n < 8)
    (hi : i < 256) (ho : o < 0x40) (ha : a = 0x10A0000 + 0x100000 * n + 0x40 * i + o) :
    regValue fz t a = readStream (getStream t (256 * n + i)) o := by
  rw [regValue_cur fz (0xA0000 + 0x40 * i + o) hn (by omega) (by omega)]
  simp (disch := omega) only [readCurrent, hu, Bool.not_true, Bool.false_eq_true, if_false, curUnit, if_neg, if_pos,
    show (0xA0000 + 0x40 * i + o - 0xA0000) / 0x40 = i by omega, show (0xA0000 + 0x40 * i + o) % 0x40 = o by omega]

theorem regValue_lee (fz : Fuses) {t : Block} {n a : Nat} (o : Nat) (hu : curUsable t n = true) (hn : n < 8)
    (ho : o < 0x50000) (ha : a = 0x10B0000 + 0x100000 * n + o) : regValue fz t a = readLee t n o := by
  rw [regValue_cur fz (0xB0000 + o) hn (by omega) (by omega)]
  simp (disch := omega) only [readCurrent, hu, Bool.not_true, Bool.false_eq_true, if_false, curUnit, if_neg, if_pos,
    show 0xB0000 + o - 0xB0000 = o by omega]

theorem regValue_link (fz : Fuses) {t : Block} {l a : Nat} (o : Nat) (hl : l < 24) (ho : o < 0xC000)
    (ha : a = 0x2000000 + 0x10000 * l + o) : regValue fz t a = readLinkRegs (getLink t l) o := by
  rw [ha, regValue, winOf_link hl (by omega)]
  simp (disch := omega) only [readLink, linkUnit, if_neg]

theorem regValue_port (fz : Fuses) {t : Block} {f a : Nat} (o : Nat) (hf : f < 64) (ho : o < 0x1000)
    (ha : a = 0x3000000 + 0x1000 * f + o) : regValue fz t a = readPort (getPort t f) o := by
  rw [ha, regValue, winOf_port hf ho]

/-- Member i of a register group. -/
theorem at'_member (base : Nat) {stride count i : Nat} (hs : 0 < stride) (hi : i < count) :
    at' (base + stride * i) base stride count = some i := by
  simp [at', hs, hi]

/-- An offset past the last member is not of the group. -/
theorem at'_past {off base stride count : Nat} (hs : 0 < stride) (h : base + stride * count ≤ off) :
    at' off base stride count = none := by
  have hdiv : count ≤ (off - base) / stride := (Nat.le_div_iff_mul_le hs).2 (by rw [Nat.mul_comm]; omega)
  exact if_neg (by omega)

/-- NB of an Eddy stands at 0x100 of the Lee registers (R249). -/
theorem readLee_bankCount (t : Block) {n e : Nat} (he : e < 16) :
    readLee t n (0x100 + 4 * e) = bankCount t (16 * n + e) := by
  unfold readLee
  split
  any_goals omega
  simp only [at'_member 0x100 (show 0 < 4 by decide) he]

/-- The step and MAX of a Current's Gale clock (R399). -/
theorem readStart_gale (t : Block) {n : Nat} (hn : n < 8) :
    readStart t (0x110 + 4 * n) = (getGale t n).cur * 2 ^ 16 + (getGale t n).max := by
  unfold readStart
  split
  any_goals omega
  simp only [at'_past (show 0 < 4 by decide) (show 0x40 + 4 * 12 ≤ 0x110 + 4 * n by omega),
    at'_member 0x110 (show 0 < 4 by decide) hn]

/-- The limit of a Current's Gale clock (R399). -/
theorem readStart_limit (t : Block) {n : Nat} (hn : n < 8) : readStart t (0x130 + 4 * n) = (getGale t n).limit := by
  unfold readStart
  split
  any_goals omega
  simp only [at'_past (show 0 < 4 by decide) (show 0x40 + 4 * 12 ≤ 0x130 + 4 * n by omega),
    at'_past (show 0 < 4 by decide) (show 0x110 + 4 * 8 ≤ 0x130 + 4 * n by omega),
    at'_member 0x130 (show 0 < 4 by decide) hn]

/-! ## Values just after a cold reset -/

namespace JustReset

variable {t : Block} (h : JustReset t)
include h

theorem not_inCalm : inCalm t = false := by
  obtain ⟨straps, hs, -⟩ := h.start
  rw [inCalm, hs]
  rfl

theorem curUsable_of_lt {n : Nat} (hn : n < 8) : curUsable t n = true := by
  obtain ⟨straps, hs, hcur⟩ := h.start
  obtain ⟨droop, budget, hp⟩ := h.power
  have hbit : ∀ n < 8, bit 255 n = true := by decide
  have hgated : Table.get 0 t.power.gated n = 0 := by rw [hp]; rfl
  simp only [curUsable, curEnabled, hn, decide_true, hs, hcur, hbit n hn, h.not_inCalm, hgated]
  simp

/-- The registers of the Windsock window (R356, R357). -/
theorem wsk_regs (fz : Fuses) : ∀ p ∈ [(0x1000, 0), (0x1004, 0), (0x1008, 0), (0x100C, 0x80061A80), (0x1014, 0),
    (0x2020, 0), (0x2024, 0x80000002)], regValue fz t p.1 = p.2 := by
  obtain ⟨waiting, hevt, -⟩ := h.evt
  obtain ⟨hauto, hjobs⟩ := h.vanePolicy
  simp (disch := omega) only [List.forall_mem_cons, List.not_mem_nil, false_implies, implies_true,
    regValue_wsk, readWsk, hevt, h.seam, hauto, hjobs]
  decide

/-- The registers of the Dispatcher window (R440). -/
theorem dsp_regs (fz : Fuses) : ∀ p ∈ [(0x101100, 0), (0x101108, 0)], regValue fz t p.1 = p.2 := by
  simp (disch := omega) only [List.forall_mem_cons, List.not_mem_nil, false_implies, implies_true,
    regValue_dsp, Nat.reduceSub, readDsp, irqPend, h.host, h.job]
  decide

/-- The registers of start, clocks and power (R382, R399). -/
theorem start_regs (fz : Fuses) : ∀ p ∈ [(0x200008, 0), (0x20000C, 0), (0x200010, 1), (0x200014, 0x190),
    (0x200018, 0x708), (0x20001C, 0), (0x200020, 0xA), (0x200104, 0x618), (0x200108, 0), (0x200280, 0)],
    regValue fz t p.1 = p.2 := by
  obtain ⟨straps, hs, -⟩ := h.start
  obtain ⟨droop, budget, hp⟩ := h.power
  simp (disch := omega) only [List.forall_mem_cons, List.not_mem_nil, false_implies, implies_true,
    regValue_start, Nat.reduceSub, readStart, hs, hp, gatedWord]
  decide

/-- The counter of the landing ranges (R308). -/
theorem ranges_regs (fz : Fuses) : ∀ p ∈ [(0x21F0400, 0)], regValue fz t p.1 = p.2 := by
  simp (disch := omega) only [List.forall_mem_cons, List.not_mem_nil, false_implies, implies_true,
    regValue_ranges, Nat.reduceSub, readRanges, if_true, h.dups, h.unknown]
  decide

/-- The registers of the seam (R22, R358). -/
theorem seam_regs (fz : Fuses) : ∀ p ∈ [(0x4000104, 0), (0x4000108, 0x810005A0), (0x4000110, 0)],
    regValue fz t p.1 = p.2 := by
  simp (disch := omega) only [List.forall_mem_cons, List.not_mem_nil, false_implies, implies_true,
    regValue_seam, Nat.reduceSub, readSeam, seamWidth, h.seam,
    Seam.reset, Bool.false_and, Bool.false_eq_true, if_false]
  decide

/-- The clock registers of a Current (R399). -/
theorem gale_regs (fz : Fuses) {n : Nat} (hn : n < 8) :
    regValue fz t (0x200110 + 4 * n) = 0x4B00E10 ∧ regValue fz t (0x200130 + 4 * n) = 0 := by
  obtain ⟨droop, budget, hp⟩ := h.power
  have hg : getGale t n = Gale.fresh := by rw [getGale, hp]; rfl
  rw [regValue_start fz (by omega) (by omega), regValue_start fz (by omega) (by omega),
    show 0x200110 + 4 * n - 0x200000 = 0x110 + 4 * n by omega,
    show 0x200130 + 4 * n - 0x200000 = 0x130 + 4 * n by omega,
    readStart_gale t hn, readStart_limit t hn, hg]
  decide

/-- The Lee registers of a Current (R249). -/
theorem lee_regs (fz : Fuses) {n : Nat} (hn : n < 8) :
    regValue fz t (0x10B0000 + 0x100000 * n) = 0x80040000 ∧ regValue fz t (0x10B0004 + 0x100000 * n) = 0 ∧
      regValue fz t (0x10B0008 + 0x100000 * n) = 0x40 ∧ regValue fz t (0x10B000C + 0x100000 * n) = 0 := by
  have hc : getCur t n = Current.fresh := by rw [getCur, h.currents]; rfl
  have hu := h.curUsable_of_lt hn
  rw [regValue_lee fz 0 hu hn (by omega) (by omega), regValue_lee fz 4 hu hn (by omega) (by omega),
    regValue_lee fz 8 hu hn (by omega) (by omega), regValue_lee fz 0xC hu hn (by omega) (by omega)]
  simp only [readLee, hc]
  decide

/-- Every bank of an Eddy is in service (R230, R249). -/
theorem bankCount_eq (e : Nat) : bankCount t e = 48 := by
  simp only [bankCount, banksInService, getBank, h.lee]
  rfl

/-- The registers of an Eddy, and the banks of its share of Lee (R95, R127, R249). -/
theorem eddy_regs (fz : Fuses) {n e : Nat} (hn : n < 8) (he : e < 16) :
    regValue fz t (0x1000000 + 0x100000 * n + 0x8000 * e) = 0 ∧
      regValue fz t (0x1000040 + 0x100000 * n + 0x8000 * e) = 0x76543210 ∧
      regValue fz t (0x1000044 + 0x100000 * n + 0x8000 * e) = 0 ∧
      regValue fz t (0x10B0100 + 0x100000 * n + 4 * e) = 0x30 := by
  have hx : getEddy t (16 * n + e) = Eddy.fresh := by rw [getEddy, h.eddies]; rfl
  have hu := h.curUsable_of_lt hn
  rw [regValue_eddy fz 0 hu hn he (by omega) (by omega), regValue_eddy fz 0x40 hu hn he (by omega) (by omega),
    regValue_eddy fz 0x44 hu hn he (by omega) (by omega), regValue_lee fz (0x100 + 4 * e) hu hn (by omega) (by omega),
    readLee_bankCount t he, h.bankCount_eq]
  have hidle : eddyState t (16 * n + e) = 0 := by rw [eddyState, hx]; rfl
  simp only [readEddy, hidle, hx]
  decide

/-- The deadline of a stream without a transfer (R227). -/
theorem stream_tte (fz : Fuses) {n i : Nat} (hn : n < 8) (hi : i < 256) :
    regValue fz t (0x10A0004 + 0x100000 * n + 0x40 * i) = 0x7FFFFFFF := by
  have hs : getStream t (256 * n + i) = Stream.fresh := by rw [getStream, h.streams]; rfl
  rw [regValue_stream fz 4 (h.curUsable_of_lt hn) hn hi (by omega) (by omega), hs]
  rfl

/-- The registers of a link (R307). -/
theorem link_regs (fz : Fuses) {l : Nat} (hl : l < 24) :
    regValue fz t (0x20000A4 + 0x10000 * l) = 0x80000810 ∧ regValue fz t (0x20000A8 + 0x10000 * l) = 0x5780 ∧
      regValue fz t (0x20000AC + 0x10000 * l) = 0x64 ∧ regValue fz t (0x20000B0 + 0x10000 * l) = 0xF000E000 ∧
      regValue fz t (0x20000B4 + 0x10000 * l) = 0x100 ∧ regValue fz t (0x20000CC + 0x10000 * l) = 0x3E8 ∧
      regValue fz t (0x20000D4 + 0x10000 * l) = 0 := by
  obtain ⟨lanes, hk⟩ := h.link l
  rw [regValue_link fz 0xA4 hl (by omega) (by omega), regValue_link fz 0xA8 hl (by omega) (by omega),
    regValue_link fz 0xAC hl (by omega) (by omega), regValue_link fz 0xB0 hl (by omega) (by omega),
    regValue_link fz 0xB4 hl (by omega) (by omega), regValue_link fz 0xCC hl (by omega) (by omega),
    regValue_link fz 0xD4 hl (by omega) (by omega), hk]
  simp only [readLinkRegs, txSlotOf, Link.fresh]
  decide

/-- The registers of a port (R332). -/
theorem port_regs (fz : Fuses) {f : Nat} (hf : f < 64) :
    regValue fz t (0x3000008 + 0x1000 * f) = 0x1000 ∧ regValue fz t (0x3000014 + 0x1000 * f) = 0 := by
  obtain ⟨peer, hp⟩ := h.port f
  rw [regValue_port fz 8 hf (by omega) (by omega), regValue_port fz 0x14 hf (by omega) (by omega), hp]
  simp only [readPort, Port.fresh]
  decide

end JustReset

/-- Settles O48: the block is at its reset values when RST_COLD_N rises, and every listed register reads one of them.
That Lee lists no byte before S3, and that a record of source 0xC000 waits, are the model's choices (logs 5, 130). -/
theorem coldResetLeavesResetValues : Obligations.ColdResetLeavesResetValues := by
  intro s straps hc hw hcur
  have h : JustReset (rstColdN straps s.fuses s.blk) := justReset_rstColdN straps s.fuses hc hw hcur
  obtain ⟨waiting, hevt, hsource⟩ := h.evt
  refine ⟨{ s with blk := rstColdN straps s.fuses s.blk }, rfl, rfl, by rw [h.lee]; rfl, by rw [h.lee]; rfl,
    by rw [h.job]; rfl, by rw [hevt]; rfl, fun r => by rw [getRing, h.host]; rfl, by rw [hevt]; exact hsource, ?_⟩
  refine ⟨?_, fun n hn => ?_, fun n e hn he => h.eddy_regs _ hn he, fun n i hn hi => h.stream_tte _ hn hi,
    fun l hl => h.link_regs _ hl, fun f hf => h.port_regs _ hf⟩
  · exact List.forall_mem_append.2 ⟨h.wsk_regs _, List.forall_mem_append.2 ⟨h.dsp_regs _, List.forall_mem_append.2
      ⟨h.start_regs _, List.forall_mem_append.2 ⟨h.ranges_regs _, h.seam_regs _⟩⟩⟩⟩
  · exact ⟨(h.gale_regs _ hn).1, (h.gale_regs _ hn).2, h.lee_regs _ hn⟩

end Sys2Proof.Machine
